-- ==== Sys2Proof/Word.lean ====
section
/-!
DEFINITION. The word types of the block and the plainest reading of a field of a word.
All quantities of the spec are unsigned (spec/00_scope.md section 7).
-/

namespace Sys2Proof

/-- One pixel, one line level, one response bit: 1 = on / high, 0 = off / low (00_scope.md section 7). -/
abbrev Bit := BitVec 1

/-- One byte handed to the transfer primitive, or one grayscale sample. -/
abbrev Byte := BitVec 8

/-- One host operation word `opw` (30_encoding.md R60). -/
abbrev HostWord := BitVec 32

/-- The slice `v[lo + len - 1 : lo]` of the spec's notation (00_scope.md section 7). -/
abbrev field {n : Nat} (v : BitVec n) (lo len : Nat) : BitVec len := v.extractLsb' lo len

end Sys2Proof
end

