-- ==== Sys2Proof/Syntax.lean ====
section
/-!
DEFINITION. The instructions: one constructor per row of spec/opcode_table.json, seven host operations
(30_encoding.md R61) and the four wire commands the block emits (R66). Every operand has exactly the width of its
field, so that a value outside the framebuffer cannot be spelled (R62, 60_exceptions.md R144, 90_conflicts.md C5).
-/

namespace Sys2Proof

/-- One row of the opcode table each. -/
inductive Instr where
  /-- `FBSET row, col, val` (40_framebuffer.md R80). -/
  | fbset (row : BitVec 6) (col : BitVec 7) (val : Bit)
  /-- `FBGET row, col` (R81). -/
  | fbget (row : BitVec 6) (col : BitVec 7)
  /-- `FBCLR` (R82). -/
  | fbclr
  /-- `LDGRAY w, h`; the samples come on the sample port (R85). -/
  | ldgray (w : BitVec 14) (h : BitVec 14)
  /-- `CONFIG` (44_driver_ops.md R128). -/
  | config
  /-- `INIT` (R130). -/
  | init
  /-- `RENDER` (R132). -/
  | render
  /-- wire command `SETPAGE d` (42_command_sequencer.md R102). -/
  | setpage (d : BitVec 3)
  /-- wire command `SETCOLLO` (R103). -/
  | setcollo
  /-- wire command `SETCOLHI` (R104). -/
  | setcolhi
  /-- wire command `DISPON` (R105). -/
  | dispon
  deriving DecidableEq, Repr

/-- An instruction as bits: a word of the host port, or a byte sent with the selector line at Command. The two
are separate encoding spaces (30_encoding.md section 1). -/
inductive Encoded where
  | host (w : HostWord)
  | wire (b : Byte)
  deriving DecidableEq, Repr

end Sys2Proof
end

