-- ==== Sys2Proof/WellFormed.lean ====
section
/-!
DEFINITION. Which words and bytes are legal, by the match and mask values the spec lists (30_encoding.md R62, R66).
A term of `Instr` needs no check of its own: its operands have the widths of their fields, so every term is legal
(R62: "on purpose"); what can be ill-formed is a word.
-/

namespace Sys2Proof

/-- One row of the match and mask list. -/
structure Row (n : Nat) where
  pattern : BitVec n
  mask : BitVec n
  deriving DecidableEq, Repr

/-- A word fits a row when its bits under the mask are the row's pattern. -/
def Row.fits {n : Nat} (r : Row n) (w : BitVec n) : Bool := w &&& r.mask == r.pattern

/-- Match and mask of the seven host operations (R62). -/
def hostRows : List (Row 32) :=
  [⟨0x10000000, 0xFFC080FE⟩,   -- FBSET
   ⟨0x20000000, 0xFFC080FF⟩,   -- FBGET
   ⟨0x30000000, 0xFFFFFFFF⟩,   -- FBCLR
   ⟨0x40000000, 0xF0000000⟩,   -- LDGRAY
   ⟨0x50000000, 0xFFFFFFFF⟩,   -- CONFIG
   ⟨0x60000000, 0xFFFFFFFF⟩,   -- INIT
   ⟨0x70000000, 0xFFFFFFFF⟩]   -- RENDER

/-- Match and mask of the four wire commands (R66). -/
def wireRows : List (Row 8) :=
  [⟨0xB0, 0xF8⟩,   -- SETPAGE
   ⟨0x02, 0xFF⟩,   -- SETCOLLO
   ⟨0x10, 0xFF⟩,   -- SETCOLHI
   ⟨0xAF, 0xFF⟩]   -- DISPON

/-- Legal encodings: those that fit a row. -/
def Encoded.wellFormed : Encoded → Bool
  | .host w => hostRows.any (·.fits w)
  | .wire b => wireRows.any (·.fits b)

end Sys2Proof
end

