-- ==== Sys2Proof/Decode.lean ====
section
/-!
DEFINITION. Decoding host words (30_encoding.md R60 to R65) and wire command bytes (R66), total, rejecting by
name; and the encoder, written from the same field tables.
-/

namespace Sys2Proof

/-- Why a word is no instruction. The block answers all of them REJECTED_ENCODING (R64, R65). -/
inductive Reject where
  /-- opcode 0x0 or 0x8 to 0xF (R65) -/
  | reservedOpcode
  /-- a 1 in a bit that the format marks 0 (R65) -/
  | mustBeZeroBit
  /-- a byte outside the four command patterns, which the block never emits (R68) -/
  | notACommandByte
  deriving DecidableEq, Repr

/-- The opcodes `opw[31:28]` (R61). -/
def Opcode.fbset : BitVec 4 := 0x1#4
def Opcode.fbget : BitVec 4 := 0x2#4
def Opcode.fbclr : BitVec 4 := 0x3#4
def Opcode.ldgray : BitVec 4 := 0x4#4
def Opcode.config : BitVec 4 := 0x5#4
def Opcode.init : BitVec 4 := 0x6#4
def Opcode.render : BitVec 4 := 0x7#4

/-- `i` if every must-be-zero bit is 0. -/
def unlessSet (mustBeZero : Bool) (i : Instr) : Except Reject Instr :=
  if mustBeZero then .ok i else .error .mustBeZeroBit

/-- Format Z: bits 27:0 are 0 (R62). -/
def zeroOperands (w : HostWord) : Bool := field w 0 28 == 0#28

/-- The instruction of a host word (R60 to R63). -/
def decodeHost (w : HostWord) : Except Reject Instr :=
  let op := field w 28 4
  if op = Opcode.fbset then
    unlessSet (field w 22 6 == 0#6 && field w 15 1 == 0#1 && field w 1 7 == 0#7)
      (.fbset (field w 16 6) (field w 8 7) (field w 0 1))
  else if op = Opcode.fbget then
    unlessSet (field w 22 6 == 0#6 && field w 15 1 == 0#1 && field w 0 8 == 0#8)
      (.fbget (field w 16 6) (field w 8 7))
  else if op = Opcode.fbclr then unlessSet (zeroOperands w) .fbclr
  else if op = Opcode.ldgray then .ok (.ldgray (field w 14 14) (field w 0 14))
  else if op = Opcode.config then unlessSet (zeroOperands w) .config
  else if op = Opcode.init then unlessSet (zeroOperands w) .init
  else if op = Opcode.render then unlessSet (zeroOperands w) .render
  else .error .reservedOpcode

/-- The command a byte stands for when the selector line is at Command (R66). -/
def decodeWire (b : Byte) : Except Reject Instr :=
  if field b 3 5 = 0b10110#5 then .ok (.setpage (field b 0 3))
  else if b = 0x02#8 then .ok .setcollo
  else if b = 0x10#8 then .ok .setcolhi
  else if b = 0xAF#8 then .ok .dispon
  else .error .notACommandByte

/-- Decoding in either space. -/
def decode : Encoded → Except Reject Instr
  | .host w => decodeHost w
  | .wire b => decodeWire b

/-- Format Z (R62). -/
def formatZ (op : BitVec 4) : HostWord := op ++ 0#28

/-- The bits of an instruction, most significant field first (R62, R66). -/
def encode : Instr → Encoded
  | .fbset row col val => .host (Opcode.fbset ++ 0#6 ++ row ++ 0#1 ++ col ++ 0#7 ++ val)
  | .fbget row col => .host (Opcode.fbget ++ 0#6 ++ row ++ 0#1 ++ col ++ 0#8)
  | .fbclr => .host (formatZ Opcode.fbclr)
  | .ldgray w h => .host (Opcode.ldgray ++ w ++ h)
  | .config => .host (formatZ Opcode.config)
  | .init => .host (formatZ Opcode.init)
  | .render => .host (formatZ Opcode.render)
  | .setpage d => .wire (0b10110#5 ++ d)
  | .setcollo => .wire 0x02#8
  | .setcolhi => .wire 0x10#8
  | .dispon => .wire 0xAF#8

/-- The instruction of a row of spec/opcode_table.json whose bits are `w`: rows of 32 bits are host words, rows of
8 bits are wire command bytes. -/
def decodeTableWord (nbits w : Nat) : Option Instr :=
  if nbits = 32 then (decodeHost (BitVec.ofNat 32 w)).toOption
  else if nbits = 8 then (decodeWire (BitVec.ofNat 8 w)).toOption
  else none

end Sys2Proof
end

