-- ==== Sys2Proof/Config.lean ====
section
/-!
DEFINITION. What the document fixes of the block (00_scope.md R6) and what stays open (R7).
A constant declared `opaque` has no body: nothing can be proved about its value, so a claim about it
holds for every value (log entries 1, 2, 7, 15).
-/

namespace Sys2Proof

/-- `THRESH`: a sample is on when it is strictly greater than this (R6, 40_framebuffer.md R84). -/
def Config.thresh : Byte := 127#8

/-- `OP_SETPAGE`: base value of the set-page-address command byte (R6, 42_command_sequencer.md R100). -/
def Config.opSetpage : Byte := 0xB0#8

/-- `BYTE_COLLO`: the set-column-low command byte, as emitted (R6, R103). -/
def Config.byteCollo : Byte := 0x02#8

/-- `BYTE_COLHI`: the set-column-high command byte, as emitted (R6, R104). -/
def Config.byteColhi : Byte := 0x10#8

/-- `BYTE_DISPON`: the display-on command byte (R6, R105). -/
def Config.byteDispon : Byte := 0xAF#8

/-- `T_RST_LOW_MIN` and `T_RST_HIGH_MIN`, in milliseconds: the least length of each reset hold (R6, R174). -/
def Config.resetHoldMs : Nat := 100

/-- `SER_MODE` of the external transfer primitive (R6, R20). Part of the hardwired CFG: no rule of the block
reads it, and the shifter is outside the block. -/
def Config.serMode : Nat := 0

/-- `F_SCLK` in hertz. The spec says "about 1 MHz" (R6, R20) and leaves the exact clock to the platform
(93_implementation_defined.md U10). DESIGN CHOICE: exactly 1000000 (log entry 21). Part of the hardwired CFG: no rule of
the block reads it, and no statement rests on it. -/
def Config.sclkHz : Nat := 1000000

/-- The name of a selector-line mode (glossary: selector line; 10_state.md R18). -/
inductive Mode where
  | command
  | data
  deriving DecidableEq, Repr, Inhabited

/-- `FB_RESET` (R7, D4, U1): the framebuffer's contents after hardware reset number `session`, cell by cell
(cell `128*r + c`). Any grid. -/
opaque Config.fbReset : Nat → Nat → Bit

/-- `DC` between hardware reset number `session` and the first SEND (10_state.md R18, U2): any mode. -/
opaque Config.dcReset : Nat → Mode

/-- `RSTN` between hardware reset number `session` and INIT (10_state.md R19, U2): any level. -/
opaque Config.rstnReset : Nat → Bit

/-- `DC_LEVEL(mode)` (R7, D6, U9): the level of the selector line for each mode. -/
opaque Config.dcLevel : Mode → Bit

/-- `F_CLK` in hertz (R7, D3). -/
opaque Config.fClk : Nat

/-- `RST_HOLD_CYCLES = ceil(0.1 s * F_CLK)` (R7, D10). -/
def Config.rstHoldCycles : Nat := (Config.fClk + 9) / 10

end Sys2Proof
end

