-- ==== Sys2Proof/Machine/Framebuffer.lean ====
section
/-!
DEFINITION. The block's one memory, the framebuffer FB (10_state.md R10, 20_memory.md R40): 64 rows by 128
columns of one-bit cells. It is held as a list of (address, bit) pairs in one canonical form: addresses strictly
rising, no entry equal to what an unlisted address reads as. The address of cell (r, c) is 128*r + c, the sample
number of R41. Log entries 3 and 4.
-/

namespace Sys2Proof.Machine

/-- One listed cell: its address and its bit. -/
abbrev Cell := Nat × Bit

/-- The framebuffer. -/
abbrev Framebuffer := List Cell

/-- What an unlisted address reads as: off. A matter of representation (log entry 3). -/
def Framebuffer.unlisted : Bit := 0#1

/-- How many addresses there are (R40). -/
def Framebuffer.size : Nat := 8192

/-- The bit at an address. -/
def Framebuffer.read : Framebuffer → Nat → Bit
  | [], _ => Framebuffer.unlisted
  | (b, v) :: m, a => if a = b then v else Framebuffer.read m a

/-- `m` with the entry (a, v) before it, unless v is what an unlisted address reads as. -/
def Framebuffer.cons (a : Nat) (v : Bit) (m : Framebuffer) : Framebuffer :=
  if v = Framebuffer.unlisted then m else (a, v) :: m

/-- Write one cell, keeping the canonical form. -/
def Framebuffer.write : Framebuffer → Nat → Bit → Framebuffer
  | [], a, v => Framebuffer.cons a v []
  | (b, w) :: m, a, v =>
    if a < b then Framebuffer.cons a v ((b, w) :: m)
    else if a = b then Framebuffer.cons a v m
    else (b, w) :: Framebuffer.write m a v

/-- The framebuffer whose cells from address `lo` on are the given bits, in order, and whose others are off. -/
def Framebuffer.ofPixels (lo : Nat) : List Bit → Framebuffer
  | [] => []
  | v :: vs => Framebuffer.cons lo v (Framebuffer.ofPixels (lo + 1) vs)

/-- The canonical form of a list whose addresses are to lie from `lo` on. -/
def Framebuffer.wfFrom (lo : Nat) : Framebuffer → Bool
  | [] => true
  | (a, v) :: m =>
    decide (lo ≤ a) && decide (a < Framebuffer.size) && decide (v ≠ Framebuffer.unlisted)
      && Framebuffer.wfFrom (a + 1) m

/-- The canonical form. -/
def Framebuffer.wf (m : Framebuffer) : Bool := Framebuffer.wfFrom 0 m

/-- `FB[r][c]` (00_scope.md section 7). -/
def Framebuffer.pixel (m : Framebuffer) (r c : Nat) : Bit := m.read (128 * r + c)

/-- FB after hardware reset number `session`: FB_RESET, any grid (10_state.md R11, R25). Irreducible, so that no
evaluation of a step lists its 8192 open cells without need. -/
@[irreducible] def Framebuffer.atReset (session : Nat) : Framebuffer :=
  Framebuffer.ofPixels 0 ((List.range 8192).map (Config.fbReset session))

end Sys2Proof.Machine
end

