-- ==== Sys2Proof/Machine/State.lean ====
section
/-!
DEFINITION. The state of the block (10_state.md), the events and responses an observer sees (00_scope.md R9,
30_encoding.md R64), the inputs that wait for it, the reasons a step can stop, and the state after hardware reset.
-/

namespace Sys2Proof.Machine

/-- `DRV` (10_state.md R12). -/
inductive Drv where
  | uninitialized
  | configured
  | displaying
  | halted
  deriving DecidableEq, Repr

/-- `ERR` (60_exceptions.md R140). -/
inductive ErrorKind where
  | none
  | acquisitionFailure
  | transferFailure
  | dimensionMismatch
  /-- named by the document, never produced (R144) -/
  | outOfRange
  deriving DecidableEq, Repr

/-- `PH`: the phase inside a page (10_state.md R15). -/
inductive Phase where
  | cmd
  | data
  deriving DecidableEq, Repr

/-- The transfer in flight inside the external primitive (10_state.md R23 item 2). -/
inductive XferStatus where
  /-- no transfer has started -/
  | none
  /-- started: bytes are being handed over, `BI` is the index of the next one -/
  | offering
  /-- every byte is handed over, the primitive has not answered -/
  | handed
  deriving DecidableEq, Repr

/-- Answer of the environment, and result recorded in an `Xfer` event (00_scope.md R9). -/
inductive Result where
  | ok
  | fail
  deriving DecidableEq, Repr

/-- Answer of the transfer primitive. `fail taken`: the transfer fails, at the earliest when the primitive has
taken `taken` bytes of it (10_state.md R24, `tx_fail` before the last byte; log entry 9). -/
inductive XferAnswer where
  | ok
  | fail (taken : Nat)
  deriving DecidableEq, Repr

/-- The events of the trace (00_scope.md R9). -/
inductive Event where
  | pinsOut
  | rstLine (level : Bit)
  | wait (ms : Nat)
  | selLine (m : Mode)
  | xfer (m : Mode) (bytes : List Byte) (res : Result)
  deriving DecidableEq, Repr

/-- `resp_code` (30_encoding.md R64). -/
inductive RespCode where
  | ok
  | rejectedState
  | rejectedEncoding
  | fatal
  deriving DecidableEq, Repr

/-- One response on the host port: `resp_code` and `resp_rdata` (10_state.md R24). -/
structure Response where
  code : RespCode
  rdata : Bit
  deriving DecidableEq, Repr

/-- The whole state. INVENTORY.md lists each field with its rule. -/
@[ext]
structure State where
  /-- `FB` (R10) -/
  fb : Framebuffer
  /-- `DRV` (R12) -/
  drv : Drv
  /-- `ERR` (R13) -/
  err : ErrorKind
  /-- `ERROP` (R13) -/
  errop : BitVec 4
  /-- `ERRXFER` (R13) -/
  errxfer : BitVec 5
  /-- `BUSY` (R14) -/
  busy : Bool
  /-- `OPC` (R15) -/
  opc : BitVec 4
  /-- `STG` (R15) -/
  stg : BitVec 3
  /-- `P` (R15) -/
  p : BitVec 3
  /-- `PH` (R15) -/
  ph : Phase
  /-- `BI` (R15) -/
  bi : BitVec 7
  /-- `TMR` (R16) -/
  tmr : Nat
  /-- `PINOE` (R17) -/
  pinoe : Bool
  /-- `DC` (R18) -/
  dc : Mode
  /-- `RSTN` (R19) -/
  rstn : Bit
  /-- the transfer in flight (R23 item 2) -/
  xfer : XferStatus
  /-- `TR`, oldest event first: ghost state (00_scope.md R9) -/
  trace : List Event
  /-- the bytes moved into the transfer primitive in this session with the mode of `DC` at that moment, oldest
  first: ghost state (10_state.md R24 `tx_data`, 43_serial_mux.md R113; log entry 16) -/
  tx : List (Mode × Byte)
  /-- the responses given in this session, oldest first: ghost state (00_scope.md R9; log entry 16) -/
  resps : List Response
  /-- THE MODEL'S OWN: how many hardware resets have happened; it indexes the free reset values (log entry 1) -/
  session : Nat
  /-- input: the hardware reset is asserted and not yet taken (`hw_rst_n` low, R24; log entry 14) -/
  inReset : Bool
  /-- input: the words the host presents, the first one now on the port (`op_word`, R24; log entry 5) -/
  inWords : List HostWord
  /-- input: the answers of `Env.acq()` still to come (log entry 5) -/
  inAcq : List Result
  /-- input: the answers of `Env.xfer` still to come (log entry 5) -/
  inXfer : List XferAnswer
  /-- input: the samples still to come on the sample port (20_memory.md R41; log entry 5) -/
  inSamples : List Byte
  deriving DecidableEq, Repr

/-- Why the machine stops. -/
inductive Fault where
  /-- Raised by `step`, and by the meanings of the host operations, in DRV = Halted with no hardware reset
  asserted: nothing is accepted, for ever (60_exceptions.md R146, R148; 93_implementation_defined.md U13). Safe. -/
  | halted
  /-- Raised by `step` when the sequencer position is one that 10_state.md R15 does not list; no run reaches it
  (log entry 11). Safe. -/
  | sequencer
  deriving DecidableEq, Repr

/-- Why an instruction gets no meaning. -/
inductive Refusal where
  /-- Raised by an arm of `exec` whose instruction has no meaning yet; none is left. Safe. -/
  | notModelled (mnemonic : String)
  /-- Raised by the meanings of the four wire commands in a state whose sequencer position emits another byte or
  none: the block emits the command nowhere else (42_command_sequencer.md R102 to R105), and `step` never asks for
  it there (log entry 12). Safe. -/
  | notEmittedHere
  deriving DecidableEq, Repr

/-- The answer of every meaning and of `step`. -/
abbrev Out := Host.Outcome State Fault Refusal

/-- The state right after hardware reset number `session`, with no input waiting (10_state.md R25, 70 R160). -/
def State.afterReset (session : Nat) : State where
  fb := Framebuffer.atReset session
  drv := .uninitialized
  err := .none
  errop := 0#4
  errxfer := 0#5
  busy := false
  opc := 0#4
  stg := 0#3
  p := 0#3
  ph := .cmd
  bi := 0#7
  tmr := 0
  pinoe := false
  dc := Config.dcReset session
  rstn := Config.rstnReset session
  xfer := .none
  trace := []
  tx := []
  resps := []
  session := session
  inReset := false
  inWords := []
  inAcq := []
  inXfer := []
  inSamples := []

/-- The machine right after its first hardware reset, with no input waiting (R25). -/
def State.reset : State := State.afterReset 0

end Sys2Proof.Machine
end

