-- ==== Sys2Proof/Machine/Encoder.lean ====
section
/-!
DEFINITION. The page encoder PE (41_page_encoder.md) and the byte functions of the command sequencer CS
(42_command_sequencer.md R100, R106), and the two functions over the frame stream (43_serial_mux.md R116). All are
pure: neither the command bytes nor the data bytes of a page are state (10_state.md R21, R22).
-/

namespace Sys2Proof.Machine

/-- `PACK8`: the concatenation with the top pixel most significant (R90). -/
def pack8 (b0 b1 b2 b3 b4 b5 b6 b7 : Bit) : Byte := b0 ++ b1 ++ b2 ++ b3 ++ b4 ++ b5 ++ b6 ++ b7

/-- Pixel number `q` of a packed byte, `q` = 0 the top one: bit `7 - q` (R90, R91). -/
def unpackBit (v : Byte) (q : Nat) : Bit := field v (7 - q) 1

/-- `UNPACK8`: the eight pixels of a byte, the top one first (R91). -/
def unpack8 (v : Byte) : List Bit := (List.range 8).map (unpackBit v)

/-- `PAGEDATA(FB, p)[i]`: column `127 - i` of page `p` (R92). -/
def pageByte (fb : Framebuffer) (p i : Nat) : Byte :=
  let px (q : Nat) := fb.pixel (8 * p + q) (127 - i)
  pack8 (px 0) (px 1) (px 2) (px 3) (px 4) (px 5) (px 6) (px 7)

/-- `PAGEDATA(FB, p)`: the 128 data bytes of a page, data index 0 first (R92). -/
def pageData (fb : Framebuffer) (p : Nat) : List Byte := (List.range 128).map (pageByte fb p)

/-- `PAGECMD(p)`: the three command bytes of a page (42_command_sequencer.md R100). -/
def pageCmd (p : Nat) : List Byte :=
  [Config.opSetpage + BitVec.ofNat 8 (7 - p), Config.byteCollo, Config.byteColhi]

/-- `ENCODE(FB)`: the eight pairs of a frame, logical page 0 first (R93). -/
def encodeFrame (fb : Framebuffer) : List (List Byte × List Byte) :=
  (List.range 8).map fun p => (pageCmd p, pageData fb p)

/-- `FRAMEMODE(k)` (43_serial_mux.md R116). -/
def frameMode (k : Nat) : Mode := if k % 131 < 3 then .command else .data

/-- `FRAMEBYTE(FB, k)` (R116). -/
def frameByte (fb : Framebuffer) (k : Nat) : Byte :=
  let t := k % 131
  if t < 3 then (pageCmd (k / 131)).getD t 0#8 else pageByte fb (k / 131) (t - 3)

/-- `cs_byte`, the output of CS (42_command_sequencer.md R106). -/
def csByte (s : State) : Byte :=
  if s.opc = Opcode.init then Config.byteDispon
  else if s.bi = 0#7 then 0b10110#5 ++ ~~~s.p
  else if s.bi = 1#7 then Config.byteCollo
  else Config.byteColhi

/-- `pe_byte = PAGEDATA(FB, P)[BI]`, the output of PE (41_page_encoder.md R96). -/
def peByte (s : State) : Byte := pageByte s.fb s.p.toNat s.bi.toNat

/-- `tx_data = (PH == 0) ? cs_byte : pe_byte` (43_serial_mux.md R117). -/
def txData (s : State) : Byte :=
  match s.ph with
  | .cmd => csByte s
  | .data => peByte s

end Sys2Proof.Machine
end

