-- ==== Sys2Proof/Machine/Flags.lean ====
section
/-!
DEFINITION. The flag BUSY with what is derived from it and from DRV, the numbers the status outputs show, and the
two output lines (10_state.md R12 to R14, R17 to R19, R24; 60_exceptions.md R140).
-/

namespace Sys2Proof.Machine

/-- `FATAL = (DRV == Halted)` (R14). -/
def State.fatal (s : State) : Bool := s.drv == .halted

/-- `op_ready = !BUSY && DRV != Halted` (R24, 30_encoding.md R64). -/
def State.opReady (s : State) : Bool := !s.busy && !s.fatal

/-- The code of a driver state on the output `drv` (R12). -/
def Drv.code : Drv → BitVec 2
  | .uninitialized => 0
  | .configured => 1
  | .displaying => 2
  | .halted => 3

/-- The code of an error on the output `err` (60_exceptions.md R140). -/
def ErrorKind.code : ErrorKind → BitVec 3
  | .none => 0
  | .acquisitionFailure => 1
  | .transferFailure => 2
  | .dimensionMismatch => 3
  | .outOfRange => 4

/-- `resp_code` (30_encoding.md R64). -/
def RespCode.code : RespCode → BitVec 2
  | .ok => 0
  | .rejectedState => 1
  | .rejectedEncoding => 2
  | .fatal => 3

/-- The selector line `lcd_dc`: `none` is high impedance, while `PINOE` = 0 (R18, R24). -/
def State.lcdDc (s : State) : Option Bit := if s.pinoe then some (Config.dcLevel s.dc) else none

/-- The display reset line `lcd_rst_n`: `none` is high impedance, while `PINOE` = 0 (R19, R24). -/
def State.lcdRst (s : State) : Option Bit := if s.pinoe then some s.rstn else none

/-- The mode the phase of the transfer calls for: Command from CS, Data from PE (43_serial_mux.md R116). -/
def State.phaseMode (s : State) : Mode :=
  match s.ph with
  | .cmd => .command
  | .data => .data

/-- The index of the last byte of the transfer in flight: one byte in INIT, three in phase Cmd, 128 in phase Data
(10_state.md R15, 43_serial_mux.md R117). -/
def State.lastIndex (s : State) : BitVec 7 :=
  if s.opc = Opcode.init then 0#7
  else match s.ph with
    | .cmd => 2#7
    | .data => 127#7

/-- The index of the transfer inside its operation: `2*P + PH` in RENDER, 0 in INIT (10_state.md R13, R15). -/
def State.xferIndex (s : State) : BitVec 5 :=
  if s.opc = Opcode.init then 0#5
  else BitVec.ofNat 5 (2 * s.p.toNat + match s.ph with
    | .cmd => 0
    | .data => 1)

/-- The operation in flight is one that sends, at a place where it sends: RENDER, or stage 4 of INIT. -/
def State.inTransfer (s : State) : Bool :=
  s.busy && (s.opc == Opcode.render || (s.opc == Opcode.init && s.stg == 4#3))

/-- The transfer primitive has already failed the transfer being handed over (43_serial_mux.md R117;
log entry 9). -/
def State.failedEarly (s : State) : Bool :=
  match s.inXfer with
  | .fail taken :: _ => decide (taken ≤ s.bi.toNat)
  | _ => false

/-- A command byte is due: a transfer is being handed over in phase Cmd. -/
def State.sendingCommand (s : State) : Bool :=
  s.inTransfer && s.xfer == .offering && s.ph == .cmd

/-- A data byte is due: a transfer of RENDER is being handed over in phase Data. -/
def State.sendingData (s : State) : Bool :=
  s.busy && s.opc == Opcode.render && s.xfer == .offering && s.ph == .data

/-- `tx_valid`: a byte of the transfer is on offer (10_state.md R24, 43_serial_mux.md R117). -/
def State.txValid (s : State) : Bool := s.inTransfer && s.xfer == .offering && !s.failedEarly

/-- `tx_first`: the byte on offer is the first of its transfer (R24). -/
def State.txFirst (s : State) : Bool := s.txValid && s.bi == 0#7

/-- `tx_last`: the byte on offer is the last of its transfer (R24). -/
def State.txLast (s : State) : Bool := s.txValid && s.bi == s.lastIndex

/-- `smp_ready`: LDGRAY is in flight and waits for samples (R24, 40_framebuffer.md R85). -/
def State.smpReady (s : State) : Bool := s.busy && s.opc == Opcode.ldgray

end Sys2Proof.Machine
end

