-- ==== Sys2Proof/Machine/Operands.lean ====
section
/-!
DEFINITION. The operand forms: the cell address of formats RC1 and RC, the dimension guard of format DIM and the
threshold of a sample.
-/

namespace Sys2Proof.Machine

/-- The framebuffer address of the operands `row` and `col`, both unsigned and used as they stand
(30_encoding.md R63, 20_memory.md R40, R41). Every value they hold is an address (R45). -/
def cellAddr (row : BitVec 6) (col : BitVec 7) : Nat := 128 * row.toNat + col.toNat

/-- The dimension guard: the one legal pair is w = 128, h = 64 (30_encoding.md R63, 60_exceptions.md R143). -/
def dimensionsLegal (w h : BitVec 14) : Bool := w == 128#14 && h == 64#14

/-- `THRESHOLD(s)`: on exactly when s > 127, unsigned and strict (40_framebuffer.md R84). -/
def threshold (s : Byte) : Bit := if Config.thresh < s then 1#1 else 0#1

/-- The framebuffer that LDGRAY makes of its samples, row-major (R85, 20_memory.md R41). -/
def grayFrame (samples : List Byte) : Framebuffer := Framebuffer.ofPixels 0 (samples.map threshold)

end Sys2Proof.Machine
end

