-- ==== Sys2Proof/Machine/Ops.lean ====
section
/-!
DEFINITION. The named operations over the state that the meanings are written with: the trace, responses,
acceptance of a host word, raising an error, SEND in its parts, and the hardware reset.
-/

namespace Sys2Proof.Machine

/-- `Emit(e)`: the event is the newest of the trace (00_scope.md R9). -/
def emit (e : Event) (s : State) : State := { s with trace := s.trace ++ [e] }

/-- One response on the host port (30_encoding.md R64). -/
def answer (code : RespCode) (rdata : Bit) (s : State) : State :=
  { s with resps := s.resps ++ [⟨code, rdata⟩] }

/-- `respond(code, bit)`: the operation in flight ends (00_scope.md section 7, 10_state.md R14, R15). -/
def respond (code : RespCode) (rdata : Bit) (s : State) : State :=
  answer code rdata { s with busy := false, opc := 0#4 }

/-- `raise E(op, xfer)` for the operation in flight, one step (60_exceptions.md R146). -/
def raise (e : ErrorKind) (index : BitVec 5) (s : State) : State :=
  answer .fatal 0#1
    { s with
      err := e
      errop := s.opc
      errxfer := index
      drv := .halted
      opc := 0#4
      stg := 0#3
      p := 0#3
      ph := .cmd
      bi := 0#7
      tmr := 0
      xfer := .none
      busy := false }

/-- Acceptance of a host operation with opcode `op` (30_encoding.md R64, 44_driver_ops.md R126): in Halted nothing
is accepted; while another operation is in flight the word has no effect; where the state does not allow the
operation the answer is REJECTED_STATE and nothing else; otherwise `run` starts with BUSY = 1. -/
def accept (op : BitVec 4) (allowed : Bool) (run : State → State) (s : State) : Out :=
  if s.drv = .halted then .fault .halted
  else if s.busy then .next s
  else if allowed then .next (run { s with busy := true, opc := op })
  else .next (answer .rejectedState 0#1 s)

/-- The start of SEND(m, bytes): the selector line is set, and only then the transfer begins (43_serial_mux.md R111,
R112). -/
def beginSend (m : Mode) (s : State) : State :=
  emit (.selLine m) { s with dc := m, bi := 0#7, xfer := .offering }

/-- One byte of the transfer is handed over: it leaves with the selector line as `DC` has it, and `BI` counts up,
but for the last byte, after which the transfer awaits its answer (R111, R113; log entry 8). -/
def handByte (b : Byte) (s : State) : State :=
  if s.bi = s.lastIndex then { s with tx := s.tx ++ [(s.dc, b)], xfer := .handed }
  else { s with tx := s.tx ++ [(s.dc, b)], bi := s.bi + 1#7 }

/-- The byte sequence that the SEND in flight was given (44_driver_ops.md R130, R132). -/
def sendBytes (s : State) : List Byte :=
  if s.opc = Opcode.init then [Config.byteDispon]
  else match s.ph with
    | .cmd => pageCmd s.p.toNat
    | .data => pageData s.fb s.p.toNat

/-- The end of SEND with the primitive's answer `res` (43_serial_mux.md R111). -/
def endSend (res : Result) (s : State) : State :=
  emit (.xfer s.phaseMode (sendBytes s) res) { s with bi := 0#7, xfer := .none, inXfer := s.inXfer.tail }

/-- What the result of an answered transfer means to the operation in flight. -/
def XferAnswer.result : XferAnswer → Result
  | .ok => .ok
  | .fail _ => .fail

/-- Hardware reset (70_reset_and_hazards.md R160, R161): every state element to its reset value, the operation in
flight abandoned, a new session with an unspecified framebuffer. What the host and the environment still have to
present stays with them (log entry 14). -/
def hardwareReset (s : State) : State :=
  { State.afterReset (s.session + 1) with
    inWords := s.inWords
    inAcq := s.inAcq
    inXfer := s.inXfer
    inSamples := s.inSamples }

end Sys2Proof.Machine
end

