-- ==== Sys2Proof/Machine/DriverOps.lean ====
section
/-!
DEFINITION. The meanings of CONFIG, INIT and RENDER (44_driver_ops.md) and the parts of them that the sequencer
performs after acceptance, one move at a time (log entry 6).
-/

namespace Sys2Proof.Machine

/-- CONFIG's question to the environment (R128): Ok makes the two lines outputs and moves to Configured, Fail is
AcquisitionFailure, no answer holds the block (70 R175). -/
def askAcquisition (s : State) : State :=
  match s.inAcq with
  | [] => s
  | .ok :: rest =>
    respond .ok 0#1 (emit .pinsOut { s with pinoe := true, drv := .configured, inAcq := rest })
  | .fail :: rest => raise .acquisitionFailure 0#5 { s with inAcq := rest }

/-- CONFIG (R128). -/
def execConfig (s : State) : Out :=
  accept Opcode.config (s.drv == .uninitialized) askAcquisition s

/-- The reset line is driven to `level` and the hold after it begins: stage `hold`, with the timer loaded
(R130, 10_state.md R16). -/
def driveReset (level : Bit) (hold : BitVec 3) (s : State) : State :=
  emit (.rstLine level) { s with rstn := level, stg := hold, tmr := Config.rstHoldCycles }

/-- A reset hold of at least 100 ms is over, and the next stage begins (R130; log entry 7). -/
def endHold (next : BitVec 3) (s : State) : State :=
  emit (.wait Config.resetHoldMs) { s with stg := next, tmr := 0 }

/-- INIT's lines after the first (R130): the hold of stage 1, the rising reset line of stage 2, the hold of stage 3
followed by the start of the DISPON transfer, stage 4. -/
def initStage (s : State) : Out :=
  if s.stg = 1#3 then .next (endHold 2#3 s)
  else if s.stg = 2#3 then .next (driveReset 1#1 3#3 s)
  else if s.stg = 3#3 then .next (beginSend .command (endHold 4#3 s))
  else .fault .sequencer

/-- INIT (R130): its first line, the reset line goes low. -/
def execInit (s : State) : Out :=
  accept Opcode.init (s.drv == .configured) (driveReset 0#1 1#3) s

/-- RENDER (R132): page 0, phase Cmd, and the first SEND begins. -/
def execRender (s : State) : Out :=
  accept Opcode.render (s.drv == .displaying)
    (fun s => beginSend .command { s with p := 0#3, ph := .cmd }) s

/-- What follows an answered transfer (R130, R132): `Fail` raises TransferFailure; after the DISPON transfer the block
is Displaying; after a command transfer comes the page's data transfer; after a data transfer the next page, and
after page 7 the end. -/
def afterTransfer (res : Result) (s : State) : State :=
  match res with
  | .fail => raise .transferFailure s.xferIndex s
  | .ok =>
    if s.opc = Opcode.init then respond .ok 0#1 { s with stg := 0#3, drv := .displaying }
    else match s.ph with
      | .cmd => beginSend .data { s with ph := .data }
      | .data =>
        if s.p = 7#3 then respond .ok 0#1 { s with p := 0#3, ph := .cmd }
        else beginSend .command { s with p := s.p + 1#3, ph := .cmd }

/-- The transfer in flight is answered, or, with no answer there, the block is held (43_serial_mux.md R114). -/
def takeAnswer (s : State) : State :=
  match s.inXfer with
  | [] => s
  | a :: _ => afterTransfer a.result (endSend a.result s)

end Sys2Proof.Machine
end

