-- ==== Sys2Proof/Machine/FramebufferOps.lean ====
section
/-!
DEFINITION. The meanings of FBSET, FBGET, FBCLR and LDGRAY (40_framebuffer.md). All are allowed in every driver
state but Halted, emit no event and never touch the wire.
-/

namespace Sys2Proof.Machine

/-- FBSET (R80): one cell is written. -/
def execFbset (row : BitVec 6) (col : BitVec 7) (val : Bit) (s : State) : Out :=
  accept Opcode.fbset true
    (fun s => respond .ok 0#1 { s with fb := s.fb.write (cellAddr row col) val }) s

/-- FBGET (R81): the response carries the cell's bit; no state changes. -/
def execFbget (row : BitVec 6) (col : BitVec 7) (s : State) : Out :=
  accept Opcode.fbget true (fun s => respond .ok (s.fb.read (cellAddr row col)) s) s

/-- FBCLR (R82): every cell is off, in one step. -/
def execFbclr (s : State) : Out :=
  accept Opcode.fbclr true (fun s => respond .ok 0#1 { s with fb := [] }) s

/-- The second part of LDGRAY (R85): with 8192 samples there, all cells are written in one step and the operation
ends; with fewer, the block waits for more (log entry 17). -/
def takeSamples (s : State) : State :=
  if 8192 ≤ s.inSamples.length then
    respond .ok 0#1
      { s with fb := grayFrame (s.inSamples.take 8192), inSamples := s.inSamples.drop 8192 }
  else s

/-- LDGRAY (R85): the dimension guard comes before anything else (60_exceptions.md R143, R149). -/
def execLdgray (w h : BitVec 14) (s : State) : Out :=
  accept Opcode.ldgray true
    (fun s => if dimensionsLegal w h then takeSamples s else raise .dimensionMismatch 0#5 s) s

end Sys2Proof.Machine
end

