-- ==== Sys2Proof/Machine/WireCommands.lean ====
section
/-!
DEFINITION. The meanings of the four wire commands (42_command_sequencer.md R102 to R105). The block emits one when
the sequencer stands at it; doing so hands one byte to the transfer primitive with the selector line at Command and
changes nothing in the block but the sequencer position.
-/

namespace Sys2Proof.Machine

/-- The command byte `b` is emitted, if it is the one CS offers at the sequencer position (R106). -/
def emitCommand (b : Byte) (s : State) : Out :=
  if s.sendingCommand && csByte s == b then .next (handByte b s) else .refused .notEmittedHere

/-- SETPAGE d (R102): the byte `0xB0 + d`. -/
def execSetpage (d : BitVec 3) (s : State) : Out :=
  emitCommand (Config.opSetpage + d.setWidth 8) s

/-- SETCOLLO (R103). -/
def execSetcollo (s : State) : Out := emitCommand Config.byteCollo s

/-- SETCOLHI (R104). -/
def execSetcolhi (s : State) : Out := emitCommand Config.byteColhi s

/-- DISPON (R105). -/
def execDispon (s : State) : Out := emitCommand Config.byteDispon s

end Sys2Proof.Machine
end

