-- ==== Sys2Proof/Machine/Dispatch.lean ====
section
/-!
DEFINITION. One arm per instruction, each a direct call of its meaning.
-/

namespace Sys2Proof.Machine

def exec (i : Instr) (s : State) : Host.Outcome State Fault Refusal :=
  match i with
  -- host operations
  | .fbset row col val => Sys2Proof.Machine.execFbset row col val s
  | .fbget row col => Sys2Proof.Machine.execFbget row col s
  | .fbclr => Sys2Proof.Machine.execFbclr s
  | .ldgray w h => Sys2Proof.Machine.execLdgray w h s
  | .config => Sys2Proof.Machine.execConfig s
  | .init => Sys2Proof.Machine.execInit s
  | .render => Sys2Proof.Machine.execRender s
  -- wire commands
  | .setpage d => Sys2Proof.Machine.execSetpage d s
  | .setcollo => Sys2Proof.Machine.execSetcollo s
  | .setcolhi => Sys2Proof.Machine.execSetcolhi s
  | .dispon => Sys2Proof.Machine.execDispon s

end Sys2Proof.Machine
end

