-- ==== Sys2Proof/Machine/Sequencer.lean ====
section
/-!
DEFINITION. The moves of the sequencer that are no instruction: data bytes from PE, the answer to a transfer, and
an operation that waits for its environment (10_state.md R15, 43_serial_mux.md R114, R116).
-/

namespace Sys2Proof.Machine

/-- One move of the operation in flight, command bytes apart. -/
def advance (s : State) : Out :=
  match s.xfer with
  | .offering =>
    if s.inTransfer && s.failedEarly then .next (takeAnswer s)
    else if s.sendingData then .next (handByte (peByte s) s)
    else .fault .sequencer
  | .handed => if s.inTransfer then .next (takeAnswer s) else .fault .sequencer
  | .none =>
    if s.opc = Opcode.ldgray then .next (takeSamples s)
    else if s.opc = Opcode.config then .next (askAcquisition s)
    else if s.opc = Opcode.init then initStage s
    else .fault .sequencer

end Sys2Proof.Machine
end

