-- ==== Sys2Proof/Machine/Fetch.lean ====
section
/-!
DEFINITION. Where the next instruction comes from. An idle block takes the word on the host port (30_encoding.md
R64); a block in a command transfer takes the byte CS offers at the sequencer position (42_command_sequencer.md
R106). Log entry 13.
-/

namespace Sys2Proof.Machine

/-- What the next step does: run an instruction in a state, or move otherwise. -/
inductive Fetched where
  | instr (i : Instr) (s : State)
  | move (o : Out)

/-- The idle block: it does nothing until a word is presented; a word with a reserved encoding is answered
REJECTED_ENCODING and has no other effect (R64, R65). -/
def fetchHost (s : State) : Fetched :=
  match s.inWords with
  | [] => .move (.next s)
  | w :: ws =>
    match decodeHost w with
    | .ok i => .instr i { s with inWords := ws }
    | .error _ => .move (.next (answer .rejectedEncoding 0#1 { s with inWords := ws }))

/-- The block with an operation in flight: a command byte that is due is the instruction. -/
def fetchSequencer (s : State) : Fetched :=
  if s.sendingCommand && !s.failedEarly then
    match decodeWire (csByte s) with
    | .ok i => .instr i s
    | .error _ => .move (.fault .sequencer)
  else .move (advance s)

/-- What the next step does, the hardware reset apart. -/
def fetch (s : State) : Fetched :=
  if s.drv = .halted then .move (.fault .halted)
  else if s.busy then fetchSequencer s
  else fetchHost s

/-- `s` with the host word `w` next on the port of an idle block. -/
def placeHostWord (w : HostWord) (s : State) : State :=
  { s with
    inReset := false
    drv := if s.drv = .halted then .uninitialized else s.drv
    busy := false
    inWords := w :: s.inWords }

/-- `s` with the sequencer in a command transfer of the operation `op`, at the page and byte given. -/
def placeSequencer (op : BitVec 4) (stg p : BitVec 3) (bi : BitVec 7) (s : State) : State :=
  { s with
    inReset := false
    drv := if s.drv = .halted then .displaying else s.drv
    busy := true
    opc := op
    stg := stg
    p := p
    ph := .cmd
    bi := bi
    xfer := .offering
    dc := .command
    inXfer := [] }

/-- `s` with the sequencer at the position that emits the command byte `b`; `s` itself for a byte the block never
emits. -/
def placeWireByte (b : Byte) (s : State) : State :=
  match decodeWire b with
  | .ok (.setpage d) => placeSequencer Opcode.render 0#3 (~~~d) 0#7 s
  | .ok .setcollo => placeSequencer Opcode.render 0#3 0#3 1#7 s
  | .ok .setcolhi => placeSequencer Opcode.render 0#3 0#3 2#7 s
  | .ok .dispon => placeSequencer Opcode.init 4#3 0#3 0#7 s
  | _ => s

end Sys2Proof.Machine
end

