-- ==== Sys2Proof/Machine/Step.lean ====
section
/-!
DEFINITION. One move of the block. A hardware reset comes before everything else (70_reset_and_hazards.md R160,
R161).
-/

namespace Sys2Proof.Machine

/-- One step. -/
def step (s : State) : Host.Outcome State Fault Refusal :=
  if s.inReset then .next (hardwareReset s)
  else match fetch s with
    | .instr i t => exec i t
    | .move o => o

/-- `s` with the instruction of a row of spec/opcode_table.json placed where the next step fetches it: a 32-bit row
on the host port, an 8-bit row at the sequencer position that emits it (log entry 13). -/
def State.withFetchWord (s : State) (nbits w : Nat) : State :=
  if nbits = 32 then placeHostWord (BitVec.ofNat 32 w) s
  else if nbits = 8 then placeWireByte (BitVec.ofNat 8 w) s
  else s

end Sys2Proof.Machine
end

