-- ==== Sys2Proof/Safety.lean ====
section
/-!
DEFINITION. The terms claims use: the idle block, what an observer's list of events may be (44_driver_ops.md R134),
the legal positions of the sequencer, and the invariant of the machine.
-/

namespace Sys2Proof.Machine

/-- Between operations the sequencer position and the timer are 0 and no transfer is in flight (10_state.md R15,
R16). -/
def State.AtRest (s : State) : Prop :=
  s.stg = 0#3 ∧ s.p = 0#3 ∧ s.ph = .cmd ∧ s.bi = 0#7 ∧ s.tmr = 0 ∧ s.xfer = .none

/-- The block accepts a host word: `op_ready` = 1 (10_state.md R24), with no operation in flight (R14, R15). -/
def State.Ready (s : State) : Prop := s.drv ≠ .halted ∧ s.busy = false ∧ s.opc = 0#4

/-- FBGET of the cell `(r, c)` answers OK with the bit `v` and changes nothing else (40_framebuffer.md R81, R86). -/
def State.AnswersFbget (s : State) (r : BitVec 6) (c : BitVec 7) (v : Bit) : Prop :=
  exec (.fbget r c) s = .next { s with resps := s.resps ++ [⟨.ok, v⟩] }

/-- The operation runs: its meaning answers a next state, and its response, if it has come, is not REJECTED_STATE
(44_driver_ops.md R126 "allowed"). -/
def State.Runs (s : State) (i : Instr) : Prop :=
  ∃ t, exec i s = .next t ∧ ∀ r, t.resps = s.resps ++ [r] → r.code ≠ .rejectedState

/-- The operation is answered REJECTED_STATE and nothing else changes (R126 "rejected"). -/
def State.Rejects (s : State) (i : Instr) : Prop :=
  exec i s = .next { s with resps := s.resps ++ [⟨.rejectedState, 0#1⟩] }

/-- The eleven command bytes (20_memory.md R46). -/
def commandBytes : List Byte :=
  [0x02#8, 0x10#8, 0xAF#8, 0xB0#8, 0xB1#8, 0xB2#8, 0xB3#8, 0xB4#8, 0xB5#8, 0xB6#8, 0xB7#8]

/-- The events of one SEND with the bytes `bytes` and the answer `res` (43_serial_mux.md R111). -/
def sendEvents (m : Mode) (bytes : List Byte) (res : Result) : List Event :=
  [.selLine m, .xfer m bytes res]

/-- The events of transfer number `x` of a RENDER: the command transfer of page x/2 when x is even, its data
transfer when x is odd (20_memory.md R42, 44_driver_ops.md R132). -/
def transferEvents (fb : Framebuffer) (x : Nat) (res : Result) : List Event :=
  if x % 2 = 0 then sendEvents .command (pageCmd (x / 2)) res
  else sendEvents .data (pageData fb (x / 2)) res

/-- The events of the first `n` transfers of a RENDER, all answered Ok; n = 16 is the whole frame (R132). -/
def frameEvents (fb : Framebuffer) (n : Nat) : List Event :=
  (List.range n).flatMap fun x => transferEvents fb x .ok

/-- The bytes of the first `n` bytes of a frame with the selector's mode at each (43_serial_mux.md R116). -/
def frameStream (fb : Framebuffer) (n : Nat) : List (Mode × Byte) :=
  (List.range n).map fun k => (frameMode k, frameByte fb k)

/-- The events of INIT (44_driver_ops.md R130). -/
def initEvents (res : Result) : List Event :=
  [.rstLine 0#1, .wait 100, .rstLine 1#1, .wait 100] ++ sendEvents .command [0xAF#8] res

/-- How far a session's trace has got in the one order R134 allows. -/
inductive TracePos where
  | start
  /-- after `PinsOut` -/
  | pins
  /-- after `RstLine(0)` -/
  | resetLow
  /-- after the first hold -/
  | lowHeld
  /-- after `RstLine(1)` -/
  | resetHigh
  /-- after the second hold -/
  | highHeld
  /-- the selector line is set for the DISPON transfer -/
  | disponSel
  /-- between frames -/
  | between
  /-- the selector line is set for the command transfer of page `p` -/
  | cmdSel (p : BitVec 3)
  /-- the command transfer of page `p` has succeeded -/
  | cmdSent (p : BitVec 3)
  /-- the selector line is set for the data transfer of page `p` -/
  | dataSel (p : BitVec 3)
  /-- the data transfer of page `p`, not the last, has succeeded -/
  | pageSent (p : BitVec 3)
  /-- a transfer has failed: nothing follows -/
  | failed
  deriving DecidableEq, Repr

/-- The position after a transfer's result: `ok` or the end of the trace. -/
def TracePos.after (next : TracePos) : Result → TracePos
  | .ok => next
  | .fail => .failed

/-- The one event order of a session (R134), as an acceptor: `none` for an event that may not come here. -/
def traceStep : TracePos → Event → Option TracePos
  | .start, .pinsOut => some .pins
  | .pins, .rstLine l => if l = 0#1 then some .resetLow else none
  | .resetLow, .wait t => if t = 100 then some .lowHeld else none
  | .lowHeld, .rstLine l => if l = 1#1 then some .resetHigh else none
  | .resetHigh, .wait t => if t = 100 then some .highHeld else none
  | .highHeld, .selLine .command => some .disponSel
  | .disponSel, .xfer .command bytes res =>
    if bytes = [0xAF#8] then some (TracePos.between.after res) else none
  | .between, .selLine .command => some (.cmdSel 0#3)
  | .cmdSel p, .xfer .command bytes res =>
    if bytes = pageCmd p.toNat then some ((TracePos.cmdSent p).after res) else none
  | .cmdSent p, .selLine .data => some (.dataSel p)
  | .dataSel p, .xfer .data bytes res =>
    if bytes.length = 128 then
      some ((if p = 7#3 then TracePos.between else .pageSent p).after res)
    else none
  | .pageSent p, .selLine .command => some (.cmdSel (p + 1#3))
  | _, _ => none

/-- The position after a whole trace; `none` if the order was broken. -/
def tracePos (tr : List Event) : Option TracePos := tr.foldlM traceStep .start

/-- Where the trace of a state that is not Halted must stand. -/
def State.expectedPos (s : State) : TracePos :=
  if s.opc = Opcode.init then
    if s.stg = 1#3 then .resetLow
    else if s.stg = 2#3 then .lowHeld
    else if s.stg = 3#3 then .resetHigh
    else .disponSel
  else if s.opc = Opcode.render then
    match s.ph with
    | .cmd => .cmdSel s.p
    | .data => .dataSel s.p
  else match s.drv with
    | .uninitialized => .start
    | .configured => .pins
    | .displaying => .between
    | .halted => .failed

/-- The legal positions of an operation in flight (10_state.md R15, 44_driver_ops.md R126 to R132). -/
def State.Running (s : State) : Prop :=
  (s.opc = Opcode.ldgray ∧ s.AtRest) ∨
  (s.opc = Opcode.config ∧ s.AtRest ∧ s.drv = .uninitialized) ∨
  (s.opc = Opcode.init ∧ s.drv = .configured ∧ s.p = 0#3 ∧ s.ph = .cmd ∧ s.bi = 0#7 ∧
    ((s.stg = 1#3 ∧ s.tmr = Config.rstHoldCycles ∧ s.xfer = .none ∧ s.rstn = 0#1) ∨
     (s.stg = 2#3 ∧ s.tmr = 0 ∧ s.xfer = .none ∧ s.rstn = 0#1) ∨
     (s.stg = 3#3 ∧ s.tmr = Config.rstHoldCycles ∧ s.xfer = .none ∧ s.rstn = 1#1) ∨
     (s.stg = 4#3 ∧ s.tmr = 0 ∧ s.xfer ≠ .none ∧ s.rstn = 1#1 ∧ s.dc = .command))) ∨
  (s.opc = Opcode.render ∧ s.drv = .displaying ∧ s.stg = 0#3 ∧ s.tmr = 0 ∧ s.xfer ≠ .none ∧
    s.dc = s.phaseMode ∧ s.bi ≤ s.lastIndex ∧ (s.xfer = .handed → s.bi = s.lastIndex))

/-- The records of an error that can occur: the rows of 60_exceptions.md R140. -/
def State.Recorded (s : State) : Prop :=
  (s.err = .acquisitionFailure ∧ s.errop = 0x5#4 ∧ s.errxfer = 0#5) ∨
  (s.err = .transferFailure ∧ s.errop = 0x6#4 ∧ s.errxfer = 0#5) ∨
  (s.err = .transferFailure ∧ s.errop = 0x7#4 ∧ s.errxfer ≤ 15#5) ∨
  (s.err = .dimensionMismatch ∧ s.errop = 0x4#4 ∧ s.errxfer = 0#5)

/-- The invariant of the machine. -/
structure State.Inv (s : State) : Prop where
  /-- the framebuffer is in its canonical form, all its addresses inside the grid (20_memory.md R40) -/
  memory : s.fb.wf = true
  /-- between operations the sequencer is at rest and OPC is 0 (10_state.md R15) -/
  rest : s.busy = false → s.opc = 0#4 ∧ s.AtRest
  /-- an operation in flight stands at a legal position -/
  running : s.busy = true → s.Running
  /-- while DRV is not Halted the error registers hold 0 (10_state.md R13) -/
  noError : s.drv ≠ .halted → s.err = .none ∧ s.errop = 0#4 ∧ s.errxfer = 0#5
  /-- in Halted nothing is in flight and the cause is recorded (60_exceptions.md R140, R146) -/
  halted : s.drv = .halted → s.busy = false ∧ s.Recorded
  /-- the lines are driven exactly from CONFIG on (10_state.md R17) -/
  undriven : s.drv = .uninitialized → s.pinoe = false
  driven : s.drv = .configured ∨ s.drv = .displaying → s.pinoe = true
  /-- the display reset line is high from INIT on (10_state.md R19) -/
  resetHigh : s.drv = .displaying → s.rstn = 1#1
  /-- every byte that left with the selector line at Command is one of the eleven (20_memory.md R46) -/
  commands : ∀ b, (Mode.command, b) ∈ s.tx → b ∈ commandBytes
  /-- the trace is in the one order of R134, and stands where the sequencer stands -/
  order : s.drv ≠ .halted → tracePos s.trace = some s.expectedPos
  /-- in Halted too the trace is in that order -/
  haltedOrder : s.drv = .halted → (tracePos s.trace).isSome

end Sys2Proof.Machine
end

