-- ==== Sys2Proof/Certificates/Slice0/Obligations.lean ====
section
/-!
DEFINITION. The statements for the provers. Each docstring names the rule of spec/ that it formalises. `∀ s` is
over every state, reached or not; where a claim could fail only in a state no run reaches, `s.Inv` or a part of it
is a premise, and `StepKeepsInvariant` with `ResetMeetsInvariant` says that runs stay inside.
-/

open Sys2Proof Sys2Proof.Machine

/-! ## Encodings -/

/-- Every instruction reads back from its own encoding, with every operand at every value (30_encoding.md R60 to
R66). -/
def Obligations.DecodeOfEncode : Prop := ∀ i : Instr, decode (encode i) = .ok i

/-- A word or byte that decodes is the encoding of what it decodes to: each legal word has one meaning (R62, R65,
R66). -/
def Obligations.EncodeOfDecode : Prop := ∀ (e : Encoded) (i : Instr), decode e = .ok i → encode i = e

/-- Decoding succeeds on exactly the words that fit a row of the match and mask lists (R62, R65, R66). -/
def Obligations.DecodeAcceptsExactlyTheRows : Prop :=
  ∀ e : Encoded, (∃ i, decode e = .ok i) ↔ e.wellFormed = true

/-- Some words of the spec's own list, and the four commands (95_test_vectors.md V1, 30_encoding.md R66). -/
def Obligations.WordsReadRight : Prop :=
  decodeHost 0x10254001 = .ok (.fbset 37 64 1) ∧
  decodeHost 0x20080500 = .ok (.fbget 8 5) ∧
  decodeHost 0x30000000 = .ok .fbclr ∧
  decodeHost 0x40100080 = .ok (.ldgray 64 128) ∧
  decodeHost 0x50000000 = .ok .config ∧
  decodeHost 0x60000000 = .ok .init ∧
  decodeHost 0x70000000 = .ok .render ∧
  decodeWire 0xB5 = .ok (.setpage 5) ∧
  decodeWire 0x02 = .ok .setcollo ∧
  decodeWire 0x10 = .ok .setcolhi ∧
  decodeWire 0xAF = .ok .dispon

/-- R67: the first command byte of logical page `p`, in PAGECMD and as CS offers it in RENDER, has the four forms of the
rule; `7 - p` does not borrow and the sum does not carry out of the low three bits. -/
def Obligations.SetpageByteHasFourForms : Prop :=
  ∀ p : BitVec 3,
    let b : Byte := 0xB0#8 + (7#8 - p.setWidth 8)
    (pageCmd p.toNat)[0]? = some b ∧
    (∀ s : State, s.opc = Opcode.render → s.bi = 0#7 → s.p = p → csByte s = b) ∧
    b = 0b10110#5 ++ (7#3 - p) ∧ b = 0xB7#8 - p.setWidth 8 ∧ b = 0xB0#8 ||| (p.setWidth 8 ^^^ 7#8) ∧
    (7#8 - p.setWidth 8).toNat = 7 - p.toNat ∧ b.toNat = 0xB0 + (7 - p.toNat) ∧
    0xB0 ≤ b.toNat ∧ b.toNat ≤ 0xB7

/-! ## What a step runs -/

/-- A ready block with a legal word on its port runs that word's instruction, with the word taken from the port
(30_encoding.md R64). -/
def Obligations.StepRunsTheHostWord : Prop :=
  ∀ (s : State) (w : HostWord) (ws : List HostWord) (i : Instr),
    s.inReset = false → s.drv ≠ .halted → s.busy = false → s.inWords = w :: ws → decodeHost w = .ok i →
    step s = exec i { s with inWords := ws }

/-- A block in a command transfer runs the command whose byte CS offers at the sequencer position
(42_command_sequencer.md R106), unless the transfer has already failed. -/
def Obligations.StepRunsTheCommandByte : Prop :=
  ∀ s : State, s.inReset = false → s.drv ≠ .halted → s.sendingCommand = true → s.failedEarly = false →
    ∃ i, decodeWire (csByte s) = .ok i ∧ step s = exec i s

/-- 70_reset_and_hazards.md R160: with no word presented the block does nothing, not even from reset. -/
def Obligations.IdleBlockDoesNothing : Prop :=
  ∀ s : State, s.inReset = false → s.drv ≠ .halted → s.busy = false → s.inWords = [] → step s = .next s

/-- R65: a reserved opcode or a must-be-zero bit is answered REJECTED_ENCODING with no other effect; every word of
opcode 4 decodes to an LDGRAY of its two fields and runs as one, and all but `0x40200040`, which is LDGRAY 128, 64,
raise DimensionMismatch. -/
def Obligations.ReservedWordsAreRejected : Prop :=
  ∀ (s : State) (w : HostWord) (ws : List HostWord),
    s.inReset = false → s.Ready → s.inWords = w :: ws →
    (let op := w >>> 28
     (op = 0 ∨ 8 ≤ op ∨ (op = 1 ∧ w &&& 0x0FC080FE ≠ 0) ∨ (op = 2 ∧ w &&& 0x0FC080FF ≠ 0) ∨
        ((op = 3 ∨ op = 5 ∨ op = 6 ∨ op = 7) ∧ w &&& 0x0FFFFFFF ≠ 0)) →
      step s = .next { s with inWords := ws, resps := s.resps ++ [⟨.rejectedEncoding, 0#1⟩] }) ∧
    (w >>> 28 = 4 →
      decodeHost w = .ok (.ldgray (w.extractLsb' 14 14) (w.extractLsb' 0 14)) ∧
      step s = exec (.ldgray (w.extractLsb' 14 14) (w.extractLsb' 0 14)) { s with inWords := ws }) ∧
    (w >>> 28 = 4 → w ≠ 0x40200040 →
      ∃ t, step s = .next t ∧ t.drv = .halted ∧ t.err = .dimensionMismatch) ∧
    (w = 0x40200040 → decodeHost w = .ok (.ldgray 128 64) ∧
      step s = exec (.ldgray 128 64) { s with inWords := ws } ∧ ∃ t, step s = .next t ∧ t.drv = s.drv)

/-- R126: the table of operations and driver states; in Halted nothing is accepted. That a host operation then answers no
next state is the model's form of "not accepted" (log entry 10). What an operation that runs does is said by the
statements about each. -/
def Obligations.OperationsByDriverState : Prop :=
  ∀ s : State,
    (s.Ready →
      (∀ row col val, s.Runs (.fbset row col val)) ∧ (∀ row col, s.Runs (.fbget row col)) ∧ s.Runs .fbclr ∧
      (∀ w h, s.Runs (.ldgray w h)) ∧
      (s.drv = .uninitialized → s.Runs .config ∧ s.Rejects .init ∧ s.Rejects .render) ∧
      (s.drv = .configured → s.Rejects .config ∧ s.Runs .init ∧ s.Rejects .render) ∧
      (s.drv = .displaying → s.Rejects .config ∧ s.Rejects .init ∧ s.Runs .render)) ∧
    (s.drv = .halted → ∀ i w t, encode i = .host w → exec i s ≠ .next t)

/-- R64, 70 R170: while an operation is in flight no word is taken from the port, and nothing but LDGRAY itself
touches the framebuffer. -/
def Obligations.BusyBlockTakesNoWord : Prop :=
  ∀ s t : State, s.inReset = false → s.busy = true → step s = .next t →
    t.inWords = s.inWords ∧ (s.opc ≠ Opcode.ldgray → t.fb = s.fb)

/-- R64: every accepted word gets exactly one response. Words on the port, operations in flight and responses
given add up to the same number after every step that is no hardware reset. -/
def Obligations.OneResponsePerAcceptedWord : Prop :=
  ∀ s t : State, s.inReset = false → step s = .next t →
    t.resps.length + (if t.busy then 1 else 0) + t.inWords.length =
      s.resps.length + (if s.busy then 1 else 0) + s.inWords.length

/-! ## Framebuffer operations -/

/-- R80: FBSET writes one cell, every other cell keeps its value, and nothing else changes but the response. -/
def Obligations.FbsetWritesOneCell : Prop :=
  ∀ (s : State) (row : BitVec 6) (col : BitVec 7) (val : Bit), s.Ready → s.fb.wf = true →
    ∃ fb', exec (.fbset row col val) s = .next { s with fb := fb', resps := s.resps ++ [⟨.ok, 0#1⟩] } ∧
      fb'.wf = true ∧
      ∀ (r : BitVec 6) (c : BitVec 7),
        fb'.pixel r.toNat c.toNat = if r = row ∧ c = col then val else s.fb.pixel r.toNat c.toNat

/-- R81: FBGET answers the bit of its cell and changes no state. -/
def Obligations.FbgetAnswersTheCell : Prop :=
  ∀ (s : State) (row : BitVec 6) (col : BitVec 7), s.Ready →
    exec (.fbget row col) s =
      .next { s with resps := s.resps ++ [⟨.ok, s.fb.pixel row.toNat col.toNat⟩] }

/-- R82: FBCLR turns every cell off in one step, and nothing else changes but the response. -/
def Obligations.FbclrTurnsEveryCellOff : Prop :=
  ∀ s : State, s.Ready →
    ∃ fb', exec .fbclr s = .next { s with fb := fb', resps := s.resps ++ [⟨.ok, 0#1⟩] } ∧ fb'.wf = true ∧
      ∀ r < 64, ∀ c < 128, fb'.pixel r c = 0#1

/-- R85: with the one legal pair of dimensions and 8192 samples there, LDGRAY replaces every cell by the threshold
of its sample, row-major, takes exactly 8192 samples, and changes nothing else but the response. -/
def Obligations.LdgrayLoadsTheSamples : Prop :=
  ∀ s : State, s.Ready → 8192 ≤ s.inSamples.length →
    ∃ fb', exec (.ldgray 128 64) s =
        .next { s with fb := fb', inSamples := s.inSamples.drop 8192, resps := s.resps ++ [⟨.ok, 0#1⟩] } ∧
      fb'.wf = true ∧
      ∀ n < 8192, fb'.pixel (n / 128) (n % 128) = threshold (s.inSamples.getD n 0)

/-- R143: LDGRAY with any other pair raises DimensionMismatch before any sample is taken; the framebuffer and the
lines are unchanged and no event is emitted. -/
def Obligations.LdgrayWrongDimensionsHalt : Prop :=
  ∀ (s : State) (w h : BitVec 14), s.Ready → s.AtRest → (w ≠ 128 ∨ h ≠ 64) →
    exec (.ldgray w h) s =
      .next { s with
        drv := .halted, err := .dimensionMismatch, errop := 4#4, errxfer := 0#5,
        resps := s.resps ++ [⟨.fatal, 0#1⟩] }

/-- R85, 60 R145: a sample stream that is short holds LDGRAY with BUSY = 1 and nothing else changed, for as long
as it is short. That no sample of a short stream is taken is the model's choice (log entry 17), and so is that the held
block answers the same state (log entry 5). -/
def Obligations.LdgrayWaitsForSamples : Prop :=
  (∀ s : State, s.Ready → s.inSamples.length < 8192 →
    exec (.ldgray 128 64) s = .next { s with busy := true, opc := 4#4 }) ∧
  (∀ s : State, s.inReset = false → s.drv ≠ .halted → s.busy = true → s.opc = 4#4 → s.xfer = .none →
    (s.inSamples.length < 8192 → step s = .next s) ∧
    (8192 ≤ s.inSamples.length →
      ∃ fb', step s = .next { s with
          fb := fb', inSamples := s.inSamples.drop 8192, busy := false, opc := 0#4,
          resps := s.resps ++ [⟨.ok, 0#1⟩] } ∧
        ∀ n < 8192, fb'.pixel (n / 128) (n % 128) = threshold (s.inSamples.getD n 0)))

/-- R84: the threshold is strict and unsigned, and is the sample's top bit. -/
def Obligations.ThresholdIsTheTopBit : Prop :=
  (∀ v : Byte, threshold v = (if 127 < v.toNat then 1#1 else 0#1) ∧ threshold v = v.extractLsb' 7 1) ∧
  threshold 0 = 0 ∧ threshold 127 = 0 ∧ threshold 128 = 1 ∧ threshold 255 = 1

/-- R86: the framebuffer behaves as an array, said through the answers of FBGET. -/
def Obligations.FramebufferIsAnArray : Prop :=
  ∀ s : State, s.Ready → s.fb.wf = true →
    (∀ r c v t, exec (.fbset r c v) s = .next t → t.AnswersFbget r c v) ∧
    (∀ r c v t r' c' v', exec (.fbset r c v) s = .next t → (r', c') ≠ (r, c) →
      s.AnswersFbget r' c' v' → t.AnswersFbget r' c' v') ∧
    (∀ t r c, exec .fbclr s = .next t → t.AnswersFbget r c 0#1) ∧
    (∀ t r c, exec (.ldgray 128 64) s = .next t → 8192 ≤ s.inSamples.length →
      t.AnswersFbget r c (threshold (s.inSamples.getD (128 * r.toNat + c.toNat) 0))) ∧
    (∀ t i, ((∃ r c, i = Instr.fbget r c) ∨ i = .config ∨ i = .init ∨ i = .render) → exec i s = .next t →
      t.fb = s.fb) ∧
    (∀ u v : State, u.inReset = false → u.busy = true → u.opc ≠ Opcode.ldgray → step u = .next v → v.fb = u.fb)

/-- 10_state.md R11: the framebuffer is written only by FBSET, FBCLR and LDGRAY (and by the hardware reset). -/
def Obligations.OnlyThreeOperationsWriteTheFramebuffer : Prop :=
  ∀ s t : State, s.inReset = false → step s = .next t → t.fb ≠ s.fb →
    (s.busy = true ∧ s.opc = Opcode.ldgray) ∨
    (s.busy = false ∧ ∃ w ws i, s.inWords = w :: ws ∧ decodeHost w = .ok i ∧
      ((∃ r c v, i = .fbset r c v) ∨ i = .fbclr ∨ i = .ldgray 128 64))

/-! ## The page encoder -/

/-- R90: the first pixel is the most significant bit, each lane is copied unchanged to its place, the result is the
concatenation, and all 256 values occur. -/
def Obligations.PackPutsTheTopPixelHighest : Prop :=
  (∀ b0 b1 b2 b3 b4 b5 b6 b7 : Bit,
    let v := pack8 b0 b1 b2 b3 b4 b5 b6 b7
    let z (b : Bit) : Byte := b.setWidth 8
    v = (z b0 <<< 7) ||| (z b1 <<< 6) ||| (z b2 <<< 5) ||| (z b3 <<< 4) ||| (z b4 <<< 3) ||| (z b5 <<< 2) |||
      (z b6 <<< 1) ||| (z b7 <<< 0) ∧
    v.extractLsb' 7 1 = b0 ∧ v.extractLsb' 6 1 = b1 ∧ v.extractLsb' 5 1 = b2 ∧ v.extractLsb' 4 1 = b3 ∧
    v.extractLsb' 3 1 = b4 ∧ v.extractLsb' 2 1 = b5 ∧ v.extractLsb' 1 1 = b6 ∧ v.extractLsb' 0 1 = b7 ∧
    v = b0 ++ b1 ++ b2 ++ b3 ++ b4 ++ b5 ++ b6 ++ b7) ∧
  (∀ v : Byte, ∃ b0 b1 b2 b3 b4 b5 b6 b7, pack8 b0 b1 b2 b3 b4 b5 b6 b7 = v) ∧
  pack8 1 0 1 1 0 0 0 1 = 0xB1 ∧ pack8 1 0 0 0 0 0 0 0 = 0x80 ∧ pack8 0 0 0 0 0 0 0 1 = 0x01

/-- R91: UNPACK8 lists the bits from the top one down, UNPACK8 and PACK8 are inverse, and pixel `(8p + q, c)` is bit `7 - q` of data byte `127 - c` of page `p`. -/
def Obligations.UnpackInvertsPack : Prop :=
  (∀ v : Byte, unpack8 v =
    [v.extractLsb' 7 1, v.extractLsb' 6 1, v.extractLsb' 5 1, v.extractLsb' 4 1,
     v.extractLsb' 3 1, v.extractLsb' 2 1, v.extractLsb' 1 1, v.extractLsb' 0 1]) ∧
  (∀ b0 b1 b2 b3 b4 b5 b6 b7 : Bit,
    unpack8 (pack8 b0 b1 b2 b3 b4 b5 b6 b7) = [b0, b1, b2, b3, b4, b5, b6, b7]) ∧
  (∀ v : Byte, pack8 (unpackBit v 0) (unpackBit v 1) (unpackBit v 2) (unpackBit v 3) (unpackBit v 4)
    (unpackBit v 5) (unpackBit v 6) (unpackBit v 7) = v) ∧
  (∀ (fb : Framebuffer), ∀ p < 8, ∀ q < 8, ∀ c < 128,
    unpackBit ((pageData fb p).getD (127 - c) 0) q = fb.pixel (8 * p + q) c)

/-- R92: a page has exactly 128 data bytes, byte `i` packs column `127 - i` of rows `8p` to `8p + 7`, and no cell of
another page influences it. -/
def Obligations.PageDataIsMirroredColumns : Prop :=
  ∀ (fb : Framebuffer), ∀ p < 8,
    (pageData fb p).length = 128 ∧
    (∀ i < 128, (pageData fb p)[i]? = some (pack8
      (fb.pixel (8 * p + 0) (127 - i)) (fb.pixel (8 * p + 1) (127 - i)) (fb.pixel (8 * p + 2) (127 - i))
      (fb.pixel (8 * p + 3) (127 - i)) (fb.pixel (8 * p + 4) (127 - i)) (fb.pixel (8 * p + 5) (127 - i))
      (fb.pixel (8 * p + 6) (127 - i)) (fb.pixel (8 * p + 7) (127 - i)))) ∧
    (∀ fb' : Framebuffer, (∀ q < 8, ∀ c < 128, fb'.pixel (8 * p + q) c = fb.pixel (8 * p + q) c) →
      pageData fb' p = pageData fb p)

/-- 20_memory.md R44: the whole pixel-to-wire mapping, forward and backward, and that it is a bijection. -/
def Obligations.PixelToWireMapping : Prop :=
  (∀ (fb : Framebuffer), ∀ r < 64, ∀ c < 128,
    let p := r / 8
    let q := r % 8
    let d := 7 - p
    let i := 127 - c
    let k := 131 * p + 3 + i
    frameMode k = .data ∧ (frameByte fb k).extractLsb' (7 - q) 1 = fb.pixel r c ∧ k < 1048 ∧
    (pageData fb p)[i]? = some (frameByte fb k) ∧
    transferEvents fb (2 * p + 1) .ok = sendEvents .data (pageData fb p) .ok ∧
    (pageCmd p)[0]? = some (0xB0#8 + BitVec.ofNat 8 d)) ∧
  (∀ (fb : Framebuffer), ∀ p < 8, ∀ i < 128, ∀ b < 8,
    (pageByte fb p i).extractLsb' b 1 = fb.pixel (8 * p + (7 - b)) (127 - i)) ∧
  (∀ r < 64, ∀ c < 128, ∀ r' < 64, ∀ c' < 128,
    (r / 8, 127 - c, 7 - r % 8) = (r' / 8, 127 - c', 7 - r' % 8) → r = r' ∧ c = c') ∧
  (∀ p < 8, ∀ i < 128, ∀ b < 8, ∃ r < 64, ∃ c < 128, p = r / 8 ∧ i = 127 - c ∧ b = 7 - r % 8)

/-- 41_page_encoder.md R94 item 3: two framebuffers with the same data bytes are the same, and every choice of 1024
bytes is the encoding of one. -/
def Obligations.EncodingIsABijection : Prop :=
  (∀ fb fb' : Framebuffer, fb.wf = true → fb'.wf = true →
    (∀ p < 8, pageData fb p = pageData fb' p) → fb = fb') ∧
  (∀ data : Nat → Nat → Byte, ∃ fb : Framebuffer, fb.wf = true ∧
    ∀ p < 8, ∀ i < 128, pageByte fb p i = data p i)

/-- R94 item 1: with exactly the cell `(r, c)` on, data byte `127 - c` of page `r / 8` is `0x80 >> (r mod 8)` and
all other data bytes of the frame are 0. -/
def Obligations.OnePixelLightsOneBit : Prop :=
  ∀ (fb : Framebuffer) (r c : Nat), r < 64 → c < 128 →
    (∀ r' < 64, ∀ c' < 128, fb.pixel r' c' = if r' = r ∧ c' = c then 1#1 else 0#1) →
    ∀ p < 8, ∀ i < 128,
      pageByte fb p i = if p = r / 8 ∧ i = 127 - c then 0x80#8 >>> (r % 8) else 0#8

/-- R94 item 2: cell-wise or, and, and complement of framebuffers become or, and, and complement of data bytes. -/
def Obligations.EncodingIsBitwise : Prop :=
  ∀ (f g h : Framebuffer), ∀ p < 8, ∀ i < 128,
    ((∀ r < 64, ∀ c < 128, h.pixel r c = f.pixel r c ||| g.pixel r c) →
      pageByte h p i = pageByte f p i ||| pageByte g p i) ∧
    ((∀ r < 64, ∀ c < 128, h.pixel r c = f.pixel r c &&& g.pixel r c) →
      pageByte h p i = pageByte f p i &&& pageByte g p i) ∧
    ((∀ r < 64, ∀ c < 128, h.pixel r c = ~~~(f.pixel r c)) → pageByte h p i = ~~~(pageByte f p i))

/-- 43_serial_mux.md R116: the stream of FRAMEMODE and FRAMEBYTE over `k` = 0 to 1047 is the eight pairs of ENCODE,
each the three command bytes at Command and then the 128 data bytes at Data. -/
def Obligations.FrameStreamIsTheEncodedFrame : Prop :=
  ∀ fb : Framebuffer,
    frameStream fb 1048 =
      (encodeFrame fb).flatMap fun pair =>
        pair.1.map (fun b => (Mode.command, b)) ++ pair.2.map (fun b => (Mode.data, b))

/-! ## The command sequencer -/

/-- 42_command_sequencer.md R101: the table of PAGECMD; the first bytes of the pages are pairwise different; the bytes
of page `p` stand at the frame-stream indices 131p to 131p + 2, under Command, in transfer 2p. -/
def Obligations.PageCommandTable : Prop :=
  (List.range 8).map pageCmd =
    [[0xB7, 0x02, 0x10], [0xB6, 0x02, 0x10], [0xB5, 0x02, 0x10], [0xB4, 0x02, 0x10],
     [0xB3, 0x02, 0x10], [0xB2, 0x02, 0x10], [0xB1, 0x02, 0x10], [0xB0, 0x02, 0x10]] ∧
  ((List.range 8).map fun p => (pageCmd p).head?).Nodup ∧
  ∀ (fb : Framebuffer), ∀ p < 8,
    transferEvents fb (2 * p) .ok = sendEvents .command (pageCmd p) .ok ∧
    ∀ j < 3, frameMode (131 * p + j) = .command ∧ (pageCmd p)[j]? = some (frameByte fb (131 * p + j))

/-- R106: the byte CS offers is byte `BI` of the transfer's bytes, in RENDER and in INIT. -/
def Obligations.CsOffersTheTransferBytes : Prop :=
  ∀ s : State,
    (s.opc = Opcode.render → s.ph = .cmd → s.bi ≤ 2#7 → (sendBytes s)[s.bi.toNat]? = some (csByte s)) ∧
    (s.opc = Opcode.init → sendBytes s = [csByte s] ∧ csByte s = 0xAF#8)

/-- R102: SETPAGE `d` is emitted exactly as byte 0 of a command transfer of RENDER with `d = 7 - P`; it hands over
the byte `0xB0 + d` and changes nothing else but the byte index. -/
def Obligations.SetpageIsEmittedFirst : Prop :=
  ∀ (s : State) (d : BitVec 3),
    (s.sendingCommand = true → s.opc = Opcode.render → s.bi = 0#7 → d = 7#3 - s.p →
      exec (.setpage d) s =
        .next { s with tx := s.tx ++ [(s.dc, 0xB0#8 + d.setWidth 8)], bi := 1#7 }) ∧
    (∀ t, exec (.setpage d) s = .next t →
      s.sendingCommand = true ∧ s.opc = Opcode.render ∧ s.bi = 0#7 ∧ d = 7#3 - s.p)

/-- R103: SETCOLLO is emitted exactly as byte 1 of a command transfer of RENDER, the constant 0x02. -/
def Obligations.SetcolloIsEmittedSecond : Prop :=
  ∀ s : State,
    (s.sendingCommand = true → s.opc = Opcode.render → s.bi = 1#7 →
      exec .setcollo s = .next { s with tx := s.tx ++ [(s.dc, 0x02#8)], bi := 2#7 }) ∧
    (∀ t, exec .setcollo s = .next t → s.sendingCommand = true ∧ s.opc = Opcode.render ∧ s.bi = 1#7)

/-- R104: SETCOLHI is emitted as byte 2, the last, of a command transfer of RENDER, the constant 0x10; at the
positions R15 lists it is emitted nowhere else. The byte index stays at 2 after the last byte (log entry 8). -/
def Obligations.SetcolhiIsEmittedThird : Prop :=
  ∀ s : State,
    (s.sendingCommand = true → s.opc = Opcode.render → s.bi = 2#7 →
      exec .setcolhi s = .next { s with tx := s.tx ++ [(s.dc, 0x10#8)], xfer := .handed }) ∧
    (∀ t, s.bi ≤ s.lastIndex → exec .setcolhi s = .next t →
      s.sendingCommand = true ∧ s.opc = Opcode.render ∧ s.bi = 2#7)

/-- R105: DISPON is emitted exactly in the transfer of INIT, alone, the constant 0xAF; never by RENDER. That the
byte index stays and the transfer awaits its answer after the byte is the model's reading (log entry 8). -/
def Obligations.DisponIsEmittedByInit : Prop :=
  ∀ s : State,
    (s.sendingCommand = true → s.opc = Opcode.init → s.bi = 0#7 →
      exec .dispon s = .next { s with tx := s.tx ++ [(s.dc, 0xAF#8)], xfer := .handed }) ∧
    (∀ t, exec .dispon s = .next t → s.sendingCommand = true ∧ s.opc = Opcode.init)

/-! ## Transfers -/

/-- R113, 41 R96: in phase Data a step hands over byte `BI` of the page's data, and nothing else changes but the
byte index, or, after the last byte, the transfer's status. That the index stays at 127 and the transfer awaits its
answer after the last byte is the model's reading (log entry 8). -/
def Obligations.DataBytesLeaveInOrder : Prop :=
  ∀ s : State, s.inReset = false → s.drv ≠ .halted → s.sendingData = true → s.failedEarly = false →
    step s = .next
      (if s.bi = 127#7 then
        { s with tx := s.tx ++ [(s.dc, pageByte s.fb s.p.toNat 127)], xfer := .handed }
      else
        { s with tx := s.tx ++ [(s.dc, pageByte s.fb s.p.toNat s.bi.toNat)], bi := s.bi + 1#7 })

/-- R113: a transfer of RENDER with no failure waiting is handed over whole: each byte of its sequence once, in index
order, under one level of the selector line, with nothing added. One step per byte is the model's granularity (log entry
6); the byte index and the transfer's status after the last byte are its reading (log entry 8). -/
def Obligations.TransferIsHandedOverWhole : Prop :=
  ∀ s : State, s.inReset = false → s.drv ≠ .halted → s.busy = true → s.opc = Opcode.render → s.xfer = .offering →
    s.bi = 0#7 → (∀ k, s.inXfer.head? ≠ some (.fail k)) →
    Host.Core.run Sys2Proof.core (sendBytes s).length s =
      .next { s with
        tx := s.tx ++ (sendBytes s).map (fun b => (s.dc, b)), bi := s.lastIndex, xfer := .handed }

/-- R114, 60 R145: a transfer that is never answered holds the block, and nothing changes. The held block answers the
same state (log entry 5). -/
def Obligations.UnansweredTransferHolds : Prop :=
  ∀ s : State, s.inReset = false → s.drv ≠ .halted → s.inTransfer = true → s.xfer = .handed → s.inXfer = [] →
    step s = .next s

/-- 60_exceptions.md R142: at a failed transfer TransferFailure is raised at once, after the transfer's event and
before anything else; ERRXFER is the transfer's index. Whether all bytes were taken or the failure came early. That a
failure may come before the last byte is the model's reading of tx_fail (log entry 9). -/
def Obligations.FailedTransferHalts : Prop :=
  ∀ (s : State) (taken : Nat) (rest : List XferAnswer),
    s.inReset = false → s.drv ≠ .halted → s.inTransfer = true → s.inXfer = .fail taken :: rest →
    (s.xfer = .handed ∨ (s.xfer = .offering ∧ taken ≤ s.bi.toNat)) →
    step s = .next { s with
      drv := .halted, err := .transferFailure, errop := s.opc, errxfer := s.xferIndex,
      trace := s.trace ++ [.xfer s.phaseMode (sendBytes s) .fail],
      resps := s.resps ++ [⟨.fatal, 0#1⟩],
      busy := false, opc := 0#4, stg := 0#3, p := 0#3, ph := .cmd, bi := 0#7, tmr := 0, xfer := .none,
      inXfer := rest }

/-- R146: what `raise` writes, that everything else keeps its value, and that from then on no host word is accepted.
That a Halted block answers the fault halted is the model's form of "not accepted" (log entry 10). -/
def Obligations.RaiseEntersHalted : Prop :=
  ∀ (e : ErrorKind) (index : BitVec 5) (s : State),
    raise e index s = { s with
      err := e, errop := s.opc, errxfer := index, drv := .halted,
      opc := 0#4, stg := 0#3, p := 0#3, ph := .cmd, bi := 0#7, tmr := 0, xfer := .none, busy := false,
      resps := s.resps ++ [⟨.fatal, 0#1⟩] } ∧
    (raise e index s).opReady = false ∧
    ∀ i w, encode i = .host w → exec i (raise e index s) = .fault .halted

/-! ## Driver operations -/

/-- R128: CONFIG with the answer Ok makes the lines outputs, emits PinsOut, moves to Configured and answers OK;
nothing else changes. -/
def Obligations.ConfigConfigures : Prop :=
  ∀ (s : State) (rest : List Result), s.Ready → s.drv = .uninitialized → s.inAcq = .ok :: rest →
    exec .config s = .next { s with
      pinoe := true, drv := .configured, trace := s.trace ++ [.pinsOut], inAcq := rest,
      resps := s.resps ++ [⟨.ok, 0#1⟩] }

/-- R141: CONFIG with the answer Fail raises AcquisitionFailure; no line is made an output, no event is emitted. -/
def Obligations.ConfigFailureHalts : Prop :=
  ∀ (s : State) (rest : List Result), s.Ready → s.AtRest → s.drv = .uninitialized → s.inAcq = .fail :: rest →
    exec .config s = .next { s with
      drv := .halted, err := .acquisitionFailure, errop := 5#4, errxfer := 0#5, inAcq := rest,
      resps := s.resps ++ [⟨.fatal, 0#1⟩] }

/-- 70 R175, 44 R128, 60 R141: CONFIG with no answer holds the block with BUSY = 1, and an answer that comes later, Ok or
Fail, ends it as if it had been there. That the held block answers the same state is the model's choice (log entry
5). -/
def Obligations.ConfigWaitsForItsAnswer : Prop :=
  (∀ s : State, s.Ready → s.drv = .uninitialized → s.inAcq = [] →
    exec .config s = .next { s with busy := true, opc := 5#4 }) ∧
  (∀ (s : State) (rest : List Result), s.inReset = false → s.drv ≠ .halted → s.busy = true → s.opc = 5#4 →
    s.xfer = .none →
    (s.inAcq = [] → step s = .next s) ∧
    (s.inAcq = .ok :: rest → step s = .next { s with
      pinoe := true, drv := .configured, trace := s.trace ++ [.pinsOut], inAcq := rest, busy := false, opc := 0#4,
      resps := s.resps ++ [⟨.ok, 0#1⟩] }) ∧
    (s.inAcq = .fail :: rest → step s = .next { s with
      drv := .halted, err := .acquisitionFailure, errop := 5#4, errxfer := 0#5, inAcq := rest,
      resps := s.resps ++ [⟨.fatal, 0#1⟩],
      busy := false, opc := 0#4, stg := 0#3, p := 0#3, ph := .cmd, bi := 0#7, tmr := 0, xfer := .none }))

/-- R130: INIT, whose transfer is answered Ok, drives the reset line low, holds, drives it high, holds, sends the one
byte 0xAF with the selector line at Command, and ends in Displaying; nothing else changes. The number of steps is the
model's granularity (log entry 6). -/
def Obligations.InitBringsUpTheDisplay : Prop :=
  ∀ (s : State) (rest : List XferAnswer),
    s.inReset = false → s.Ready → s.AtRest → s.drv = .configured → s.inXfer = .ok :: rest →
    ∃ t, exec .init s = .next t ∧ t.busy = true ∧ t.rstn = 0#1 ∧ t.trace = s.trace ++ [.rstLine 0] ∧
      Host.Core.run Sys2Proof.core 5 t = .next { s with
        drv := .displaying, rstn := 1#1, dc := .command, trace := s.trace ++ initEvents .ok,
        tx := s.tx ++ [(.command, 0xAF#8)], inXfer := rest, resps := s.resps ++ [⟨.ok, 0#1⟩] }

/-- R130, R142: INIT, whose transfer is answered Fail, halts with the reset line high and the selector line at
Command. How many bytes the primitive had taken is part of the environment's answer (log entry 9). -/
def Obligations.InitFailureHalts : Prop :=
  ∀ (s : State) (taken : Nat) (rest : List XferAnswer),
    s.inReset = false → s.Ready → s.AtRest → s.drv = .configured → s.inXfer = .fail taken :: rest →
    ∃ t n, exec .init s = .next t ∧
      Host.Core.run Sys2Proof.core n t = .next { s with
        drv := .halted, err := .transferFailure, errop := 6#4, errxfer := 0#5, rstn := 1#1, dc := .command,
        trace := s.trace ++ initEvents .fail,
        tx := s.tx ++ (if taken = 0 then [] else [(.command, 0xAF#8)]),
        inXfer := rest, resps := s.resps ++ [⟨.fatal, 0#1⟩] }

/-- R132: RENDER, with its sixteen transfers answered Ok, sends the whole frame: the events of the sixteen transfers,
the 1048 bytes of the frame stream each under its selector mode; then it answers OK, the selector line stays at Data,
and everything else is as it was. The 1064 steps are 1048 bytes and 16 answers. One step per byte and one per answer
is the model's granularity (log entry 6). -/
def Obligations.RenderSendsTheWholeFrame : Prop :=
  ∀ (s : State) (rest : List XferAnswer),
    s.inReset = false → s.Ready → s.AtRest → s.drv = .displaying →
    s.inXfer = List.replicate 16 XferAnswer.ok ++ rest →
    ∃ t, exec .render s = .next t ∧ t.busy = true ∧
      Host.Core.run Sys2Proof.core 1064 t = .next { s with
        dc := .data, trace := s.trace ++ frameEvents s.fb 16, tx := s.tx ++ frameStream s.fb 1048,
        inXfer := rest, resps := s.resps ++ [⟨.ok, 0#1⟩] }

/-- R132, 60 R142, R147: RENDER halts at its first failed transfer, number `n`: the transfers before it stand, the
failed one is in the trace, ERRXFER is `n`, and nothing after it is sent. Of the failed transfer the primitive has
taken as many bytes as its answer says, at most all. How many bytes the primitive had taken is part of the
environment's answer (log entry 9). -/
def Obligations.RenderStopsAtTheFirstFailure : Prop :=
  ∀ (s : State) (n taken : Nat) (rest : List XferAnswer),
    s.inReset = false → s.Ready → s.AtRest → s.drv = .displaying → n < 16 →
    s.inXfer = List.replicate n XferAnswer.ok ++ .fail taken :: rest →
    ∃ t m, exec .render s = .next t ∧
      Host.Core.run Sys2Proof.core m t = .next { s with
        drv := .halted, err := .transferFailure, errop := 7#4, errxfer := BitVec.ofNat 5 n,
        dc := if n % 2 = 0 then .command else .data,
        trace := s.trace ++ frameEvents s.fb n ++ transferEvents s.fb n .fail,
        tx := s.tx ++ frameStream s.fb
          (131 * (n / 2) + (if n % 2 = 0 then min taken 3 else 3 + min taken 128)),
        inXfer := rest, resps := s.resps ++ [⟨.fatal, 0#1⟩] }

/-! ## The state machine, resets and lines -/

/-- The values of the hardware reset that the spec gives (10_state.md R25), and that the block then does nothing.
FB reads as the free grid of log entry 1. -/
def Obligations.ResetLeavesTheListedValues : Prop :=
  let s := State.reset
  s.drv = .uninitialized ∧ s.err = .none ∧ s.errop = 0#4 ∧ s.errxfer = 0#5 ∧ s.busy = false ∧ s.opc = 0#4 ∧
  s.AtRest ∧ s.pinoe = false ∧ s.lcdDc = none ∧ s.lcdRst = none ∧ s.trace = [] ∧ s.opReady = true ∧
  (∀ r < 64, ∀ c < 128, s.fb.pixel r c = Config.fbReset 0 (128 * r + c)) ∧
  step s = .next s

/-- R160, R161: a hardware reset, in whatever state and whatever operation is in flight, puts every state element
to its reset value and starts a new session. That FB reads as the grid of the new session is log entry 1; that the reset
is one pending input, cleared when it is taken, is the model's choice (log entry 14). -/
def Obligations.HardwareResetStartsASession : Prop :=
  ∀ s : State, s.inReset = true →
    ∃ t, step s = .next t ∧
      t.drv = .uninitialized ∧ t.err = .none ∧ t.errop = 0#4 ∧ t.errxfer = 0#5 ∧ t.busy = false ∧ t.opc = 0#4 ∧
      t.AtRest ∧ t.pinoe = false ∧ t.lcdDc = none ∧ t.lcdRst = none ∧ t.trace = [] ∧ t.opReady = true ∧
      t.inReset = false ∧ t.fb.wf = true ∧
      (∀ r < 64, ∀ c < 128, t.fb.pixel r c = Config.fbReset (s.session + 1) (128 * r + c))

/-- R148: nothing leaves Halted except the hardware reset; until then the block does nothing. That a Halted block
answers the fault halted is the model's form of doing nothing (log entry 10). -/
def Obligations.OnlyResetLeavesHalted : Prop :=
  ∀ s : State, s.drv = .halted →
    (s.inReset = false → step s = .fault .halted) ∧
    (∀ t, step s = .next t → s.inReset = true ∧
      t.drv = .uninitialized ∧ t.err = .none ∧ t.errop = 0#4 ∧ t.errxfer = 0#5 ∧ t.busy = false ∧ t.opc = 0#4 ∧
      t.AtRest ∧ t.pinoe = false ∧ t.trace = [])

/-- R12: DRV moves only along the listed transitions. -/
def Obligations.DriverStateMovesAlongTheGraph : Prop :=
  ∀ s t : State, s.Inv → s.inReset = false → step s = .next t → t.drv ≠ s.drv →
    (s.drv = .uninitialized ∧ t.drv = .configured) ∨ (s.drv = .configured ∧ t.drv = .displaying) ∨
    (s.drv ≠ .halted ∧ t.drv = .halted)

/-- R13: ERR, ERROP and ERRXFER are written only at the moment DRV becomes Halted. -/
def Obligations.ErrorsAreWrittenOnlyOnHalting : Prop :=
  ∀ s t : State, s.inReset = false → step s = .next t →
    (t.err ≠ s.err ∨ t.errop ≠ s.errop ∨ t.errxfer ≠ s.errxfer) →
    s.drv ≠ .halted ∧ t.drv = .halted

/-- 60 R144: no operation raises OutOfRange. -/
def Obligations.OutOfRangeIsNeverRaised : Prop :=
  ∀ s t : State, s.err ≠ .outOfRange → step s = .next t → t.err ≠ .outOfRange

/-- R17: the lines become outputs only by a successful CONFIG, and only the hardware reset undoes it. -/
def Obligations.LinesStayDriven : Prop :=
  ∀ s t : State, s.inReset = false → step s = .next t →
    (s.pinoe = true → t.pinoe = true) ∧
    (s.pinoe = false → t.pinoe = true → t.drv = .configured ∧ t.trace = s.trace ++ [.pinsOut])

/-- 43 R112: the selector line changes only at the start of a SEND, which records it. -/
def Obligations.SelectorMovesOnlyAtASend : Prop :=
  ∀ s t : State, s.inReset = false → step s = .next t → t.dc ≠ s.dc →
    t.trace.getLast? = some (.selLine t.dc) ∧ t.bi = 0#7 ∧ t.xfer = .offering ∧ t.tx = s.tx

/-- 10_state.md R19: the display reset line is written only by INIT, which records it. -/
def Obligations.ResetLineMovesOnlyInInit : Prop :=
  ∀ s t : State, s.inReset = false → step s = .next t → t.rstn ≠ s.rstn →
    t.opc = Opcode.init ∧ t.busy = true ∧ t.trace = s.trace ++ [.rstLine t.rstn] ∧ t.tx = s.tx

/-- 44 R131: in the trace of every state that meets the invariant, hence of every state a run reaches
(`ResetMeetsInvariant`, `StepKeepsInvariant`), the reset line goes low at most once, PinsOut comes at most once, 0xAF is
sent at most once, and every transfer but that of 0xAF stands after it and after its Ok. -/
def Obligations.SessionInitialisesOnce : Prop :=
  ∀ s : State, s.Inv →
    s.trace.count (.rstLine 0#1) ≤ 1 ∧ s.trace.count .pinsOut ≤ 1 ∧
    (s.trace.filter fun e => e == .xfer .command [0xAF#8] .ok || e == .xfer .command [0xAF#8] .fail).length ≤ 1 ∧
    ∀ (before after : List Event) (m : Mode) (bytes : List Byte) (res : Result),
      s.trace = before ++ .xfer m bytes res :: after →
      (m = .command ∧ bytes = [0xAF#8]) ∨ .xfer .command [0xAF#8] .ok ∈ before

/-! ## The invariant -/

/-- The invariant holds after reset. -/
def Obligations.ResetMeetsInvariant : Prop := State.reset.Inv

/-- Every step keeps the invariant: the framebuffer's canonical form, the legal sequencer positions, the error
records of R140, the driven lines, the eleven command bytes of R46, and the event order of R134. -/
def Obligations.StepKeepsInvariant : Prop :=
  ∀ s t : State, s.Inv → step s = .next t → t.Inv

/-- Under the invariant a step stops for one reason only: the block is Halted. The fault is the model's form of
"nothing is accepted" (log entry 10). -/
def Obligations.OnlyHaltedStops : Prop :=
  ∀ s : State, s.Inv → (∃ t, step s = .next t) ∨ (s.drv = .halted ∧ step s = .fault .halted)
end

