-- ==== Sys2Proof/Laws/Decode.lean ====
section
/-!
SUPPORT. Fields and concatenations as numbers, what decoding a host word can give, and the shape of a host
instruction's meaning.
-/

namespace Sys2Proof

/-- A concatenation as a number. -/
theorem toNat_append_add {n m : Nat} (x : BitVec n) (y : BitVec m) :
    (x ++ y).toNat = x.toNat * 2 ^ m + y.toNat := by
  rw [BitVec.toNat_append, Nat.shiftLeft_eq, Nat.mul_comm, ← Nat.two_pow_add_eq_or_of_lt y.isLt]

/-- A field as a number. -/
theorem toNat_field {n : Nat} (v : BitVec n) (lo len : Nat) :
    (field v lo len).toNat = v.toNat / 2 ^ lo % 2 ^ len := by
  rw [field, BitVec.extractLsb'_toNat, Nat.shiftRight_eq_div_pow]

/-- A field, bit by bit. -/
theorem field_eq_iff {n : Nat} (w : BitVec n) (lo len : Nat) (v : BitVec len) :
    field w lo len = v ↔ ∀ i < len, w.getLsbD (lo + i) = v.getLsbD i := by
  constructor
  · rintro rfl i hi
    simp [hi]
  · intro h
    apply BitVec.eq_of_getLsbD_eq
    intro i hi
    simp [hi, h i hi]

theorem unlessSet_ok {b : Bool} {i j : Instr} : unlessSet b i = .ok j ↔ b = true ∧ j = i := by
  cases b <;> simp [unlessSet, eq_comm]

/-- A host word decodes to a host instruction. -/
theorem decodeHost_space {w : HostWord} {i : Instr} (h : decodeHost w = .ok i) : ∃ v, encode i = .host v := by
  unfold decodeHost at h
  dsimp only at h
  split at h
  · exact ⟨_, by rw [(unlessSet_ok.1 h).2]; rfl⟩
  split at h
  · exact ⟨_, by rw [(unlessSet_ok.1 h).2]; rfl⟩
  split at h
  · exact ⟨_, by rw [(unlessSet_ok.1 h).2]; rfl⟩
  split at h
  · cases h; exact ⟨_, rfl⟩
  split at h
  · exact ⟨_, by rw [(unlessSet_ok.1 h).2]; rfl⟩
  split at h
  · exact ⟨_, by rw [(unlessSet_ok.1 h).2]; rfl⟩
  split at h
  · exact ⟨_, by rw [(unlessSet_ok.1 h).2]; rfl⟩
  · cases h

namespace Machine

/-- The meaning of every host instruction is an acceptance. -/
theorem exec_host {i : Instr} (h : ∃ v, encode i = .host v) :
    ∃ (op : BitVec 4) (allowed : State → Bool) (run : State → State), ∀ s : State,
      exec i s = accept op (allowed s) run s := by
  obtain ⟨v, h⟩ := h
  cases i with
  | fbset row col val => exact ⟨_, fun _ => true, _, fun s => execFbset.eq_1 row col val s⟩
  | fbget row col => exact ⟨_, fun _ => true, _, fun s => execFbget.eq_1 row col s⟩
  | fbclr => exact ⟨_, fun _ => true, _, fun s => execFbclr.eq_1 s⟩
  | ldgray wd hd => exact ⟨_, fun _ => true, _, fun s => execLdgray.eq_1 wd hd s⟩
  | config => exact ⟨_, fun s => s.drv == .uninitialized, _, fun s => execConfig.eq_1 s⟩
  | init => exact ⟨_, fun s => s.drv == .configured, _, fun s => execInit.eq_1 s⟩
  | render => exact ⟨_, fun s => s.drv == .displaying, _, fun s => execRender.eq_1 s⟩
  | setpage d => cases h
  | setcollo => cases h
  | setcolhi => cases h
  | dispon => cases h

end Machine

end Sys2Proof
end

