-- ==== Sys2Proof/Laws/Framebuffer.lean ====
section
/-!
SUPPORT. The framebuffer as an array: a read after a write, the canonical form kept by every operation.
-/

namespace Sys2Proof.Machine.Framebuffer

theorem bit_eq_zero_or_one (v : Bit) : v = 0#1 ∨ v = 1#1 := by
  revert v; decide

theorem read_cons (a b : Nat) (v : Bit) (m : Framebuffer) (h : m.read a = unlisted) :
    (cons a v m).read b = if b = a then v else m.read b := by
  unfold cons
  split
  · split
    · subst_vars; exact h
    · rfl
  · simp [read]

/-- An address below every listed one reads as unlisted. -/
theorem read_below {lo : Nat} {m : Framebuffer} (h : m.wfFrom lo = true) {a : Nat} (ha : a < lo) :
    m.read a = unlisted := by
  induction m generalizing lo with
  | nil => rfl
  | cons c m ih =>
    obtain ⟨b, w⟩ := c
    simp only [wfFrom, Bool.and_eq_true, decide_eq_true_eq] at h
    rw [read, if_neg (by omega)]
    exact ih h.2 (by omega)

theorem wfFrom_mono {lo lo' : Nat} {m : Framebuffer} (h : m.wfFrom lo = true) (hl : lo' ≤ lo) :
    m.wfFrom lo' = true := by
  cases m with
  | nil => rfl
  | cons c m =>
    obtain ⟨b, w⟩ := c
    simp only [wfFrom, Bool.and_eq_true, decide_eq_true_eq] at h ⊢
    exact ⟨⟨⟨by omega, h.1.1.2⟩, h.1.2⟩, h.2⟩

theorem wfFrom_cons {lo a : Nat} {v : Bit} {m : Framebuffer} (h : m.wfFrom (a + 1) = true) (hl : lo ≤ a)
    (ha : a < size) : (cons a v m).wfFrom lo = true := by
  unfold cons
  split
  · exact wfFrom_mono h (by omega)
  · simp_all [wfFrom]

theorem wfFrom_write {lo : Nat} {m : Framebuffer} (h : m.wfFrom lo = true) {a : Nat} (v : Bit) (hl : lo ≤ a)
    (ha : a < size) : (m.write a v).wfFrom lo = true := by
  induction m generalizing lo with
  | nil => exact wfFrom_cons rfl hl ha
  | cons c m ih =>
    obtain ⟨b, w⟩ := c
    have h' := h
    simp only [wfFrom, Bool.and_eq_true, decide_eq_true_eq] at h'
    rw [write]
    split
    · refine wfFrom_cons ?_ hl ha
      simp only [wfFrom, Bool.and_eq_true, decide_eq_true_eq]
      exact ⟨⟨⟨by omega, h'.1.1.2⟩, h'.1.2⟩, h'.2⟩
    · split
      · subst_vars; exact wfFrom_cons h'.2 hl ha
      · simp only [wfFrom, Bool.and_eq_true, decide_eq_true_eq]
        exact ⟨h'.1, ih h'.2 (by omega)⟩

/-- A write keeps the canonical form. -/
theorem wf_write {m : Framebuffer} (h : m.wf = true) {a : Nat} (v : Bit) (ha : a < size) :
    (m.write a v).wf = true :=
  wfFrom_write h v (Nat.zero_le _) ha

/-- A read after a write: the bit written at its address, the old bit elsewhere. -/
theorem read_write {lo : Nat} {m : Framebuffer} (h : m.wfFrom lo = true) (a b : Nat) (v : Bit) :
    (m.write a v).read b = if b = a then v else m.read b := by
  induction m generalizing lo with
  | nil => exact read_cons a b v [] rfl
  | cons c m ih =>
    obtain ⟨c, w⟩ := c
    have h' := h
    simp only [wfFrom, Bool.and_eq_true, decide_eq_true_eq] at h'
    rw [write]
    split
    · refine read_cons a b v _ ?_
      rw [read, if_neg (by omega)]
      exact read_below h'.2 (by omega)
    · split
      · subst_vars
        rw [read_cons _ _ _ _ (read_below h'.2 (by omega)), read]
        split <;> rfl
      · rw [read, read, ih h'.2]
        split
        · subst_vars; rw [if_neg (by omega)]
        · rfl

theorem wfFrom_ofPixels (lo : Nat) (l : List Bit) (h : lo + l.length ≤ size) :
    (ofPixels lo l).wfFrom lo = true := by
  induction l generalizing lo with
  | nil => rfl
  | cons v l ih =>
    simp only [List.length_cons] at h
    exact wfFrom_cons (ih (lo + 1) (by omega)) (Nat.le_refl _) (by omega)

/-- The cells made from a list of pixels. -/
theorem read_ofPixels (lo : Nat) (l : List Bit) (h : lo + l.length ≤ size) (a : Nat) :
    (ofPixels lo l).read a = if lo ≤ a then l.getD (a - lo) unlisted else unlisted := by
  induction l generalizing lo with
  | nil => simp [ofPixels, read]
  | cons v l ih =>
    simp only [List.length_cons] at h
    have hw := wfFrom_ofPixels (lo + 1) l (by omega)
    rw [ofPixels, read_cons _ _ _ _ (read_below hw (by omega)), ih (lo + 1) (by omega)]
    by_cases h1 : a = lo
    · subst h1; simp
    · by_cases h2 : lo ≤ a
      · have : a - lo = (a - (lo + 1)) + 1 := by omega
        rw [if_neg h1, if_pos (by omega), if_pos h2, this, List.getD_cons_succ]
      · rw [if_neg h1, if_neg (by omega), if_neg h2]

theorem wf_atReset (session : Nat) : (atReset session).wf = true := by
  unfold atReset
  exact wfFrom_ofPixels 0 _ (by simp [size])

/-- FB after hardware reset is FB_RESET, cell by cell. -/
theorem read_atReset (session a : Nat) (ha : a < 8192) :
    (atReset session).read a = Config.fbReset session a := by
  unfold atReset
  rw [read_ofPixels 0 _ (by simp [size])]
  simp [List.getD, ha]

/-- Two framebuffers in canonical form that read alike are the same list. -/
theorem ext_wfFrom {lo : Nat} {m m' : Framebuffer} (h : m.wfFrom lo = true) (h' : m'.wfFrom lo = true)
    (hr : ∀ a < size, m.read a = m'.read a) : m = m' := by
  induction m generalizing lo m' with
  | nil =>
    cases m' with
    | nil => rfl
    | cons c m' =>
      obtain ⟨b, w⟩ := c
      simp only [wfFrom, Bool.and_eq_true, decide_eq_true_eq] at h'
      have := hr b (by omega)
      rw [read, read, if_pos rfl] at this
      exact absurd this.symm h'.1.2
  | cons c m ih =>
    obtain ⟨b, w⟩ := c
    simp only [wfFrom, Bool.and_eq_true, decide_eq_true_eq] at h
    have hb := hr b (by omega)
    rw [read, if_pos rfl] at hb
    cases m' with
    | nil => exact absurd hb h.1.2
    | cons c' m' =>
      obtain ⟨b', w'⟩ := c'
      simp only [wfFrom, Bool.and_eq_true, decide_eq_true_eq] at h'
      have hb' := hr b' (by omega)
      rw [read, read, if_pos rfl] at hb'
      rw [read] at hb
      have hbb : b = b' := by
        rcases Nat.lt_trichotomy b b' with hlt | he | hgt
        · rw [if_neg (by omega), read_below h'.2 (by omega)] at hb
          exact absurd hb h.1.2
        · exact he
        · rw [if_neg (by omega), read_below h.2 (by omega)] at hb'
          exact absurd hb'.symm h'.1.2
      subst hbb
      rw [if_pos rfl] at hb
      subst hb
      rw [ih h.2 h'.2]
      intro a ha
      by_cases hab : a = b
      · subst hab
        rw [read_below h.2 (by omega), read_below h'.2 (by omega)]
      · have := hr a ha
        rwa [read, read, if_neg hab, if_neg hab] at this

/-- Two framebuffers in canonical form that read alike are the same. -/
theorem ext_wf {m m' : Framebuffer} (h : m.wf = true) (h' : m'.wf = true)
    (hr : ∀ a < size, m.read a = m'.read a) : m = m' :=
  ext_wfFrom h h' hr

theorem wf_nil : wf [] = true := rfl

theorem read_nil (a : Nat) : read [] a = 0#1 := rfl

/-- LDGRAY's framebuffer is in canonical form. -/
theorem wf_grayFrame (samples : List Byte) (h : samples.length ≤ 8192) : (grayFrame samples).wf = true :=
  wfFrom_ofPixels 0 _ (by simpa [size] using h)

/-- LDGRAY's framebuffer, cell by cell. -/
theorem read_grayFrame (samples : List Byte) (h : samples.length ≤ 8192) (a : Nat) (ha : a < samples.length) :
    (grayFrame samples).read a = threshold (samples.getD a 0#8) := by
  unfold grayFrame
  rw [read_ofPixels 0 _ (by simpa [size] using h)]
  simp [List.getD, ha]

/-- Two cells have different addresses. -/
theorem cellAddr_inj {r r' : BitVec 6} {c c' : BitVec 7} (h : cellAddr r c = cellAddr r' c') : r = r' ∧ c = c' := by
  unfold cellAddr at h
  have := c.isLt
  have := c'.isLt
  exact ⟨BitVec.eq_of_toNat_eq (by omega), BitVec.eq_of_toNat_eq (by omega)⟩

theorem cellAddr_lt (r : BitVec 6) (c : BitVec 7) : cellAddr r c < size := by
  unfold cellAddr size
  have := c.isLt
  have := r.isLt
  omega

end Sys2Proof.Machine.Framebuffer
end

