-- ==== Sys2Proof/Laws/State.lean ====
section
/-!
SUPPORT. What each named update of the state makes of each field, true by unfolding once, so that no later proof
unfolds a record update.
-/

namespace Sys2Proof.Machine

@[simp] theorem emit_fb (e : Event) (s : State) :
    (emit e s).fb = s.fb := rfl
@[simp] theorem emit_drv (e : Event) (s : State) :
    (emit e s).drv = s.drv := rfl
@[simp] theorem emit_err (e : Event) (s : State) :
    (emit e s).err = s.err := rfl
@[simp] theorem emit_errop (e : Event) (s : State) :
    (emit e s).errop = s.errop := rfl
@[simp] theorem emit_errxfer (e : Event) (s : State) :
    (emit e s).errxfer = s.errxfer := rfl
@[simp] theorem emit_busy (e : Event) (s : State) :
    (emit e s).busy = s.busy := rfl
@[simp] theorem emit_opc (e : Event) (s : State) :
    (emit e s).opc = s.opc := rfl
@[simp] theorem emit_stg (e : Event) (s : State) :
    (emit e s).stg = s.stg := rfl
@[simp] theorem emit_p (e : Event) (s : State) :
    (emit e s).p = s.p := rfl
@[simp] theorem emit_ph (e : Event) (s : State) :
    (emit e s).ph = s.ph := rfl
@[simp] theorem emit_bi (e : Event) (s : State) :
    (emit e s).bi = s.bi := rfl
@[simp] theorem emit_tmr (e : Event) (s : State) :
    (emit e s).tmr = s.tmr := rfl
@[simp] theorem emit_pinoe (e : Event) (s : State) :
    (emit e s).pinoe = s.pinoe := rfl
@[simp] theorem emit_dc (e : Event) (s : State) :
    (emit e s).dc = s.dc := rfl
@[simp] theorem emit_rstn (e : Event) (s : State) :
    (emit e s).rstn = s.rstn := rfl
@[simp] theorem emit_xfer (e : Event) (s : State) :
    (emit e s).xfer = s.xfer := rfl
@[simp] theorem emit_trace (e : Event) (s : State) :
    (emit e s).trace = s.trace ++ [e] := rfl
@[simp] theorem emit_tx (e : Event) (s : State) :
    (emit e s).tx = s.tx := rfl
@[simp] theorem emit_resps (e : Event) (s : State) :
    (emit e s).resps = s.resps := rfl
@[simp] theorem emit_session (e : Event) (s : State) :
    (emit e s).session = s.session := rfl
@[simp] theorem emit_inReset (e : Event) (s : State) :
    (emit e s).inReset = s.inReset := rfl
@[simp] theorem emit_inWords (e : Event) (s : State) :
    (emit e s).inWords = s.inWords := rfl
@[simp] theorem emit_inAcq (e : Event) (s : State) :
    (emit e s).inAcq = s.inAcq := rfl
@[simp] theorem emit_inXfer (e : Event) (s : State) :
    (emit e s).inXfer = s.inXfer := rfl
@[simp] theorem emit_inSamples (e : Event) (s : State) :
    (emit e s).inSamples = s.inSamples := rfl

@[simp] theorem answer_fb (code : RespCode) (rdata : Bit) (s : State) :
    (answer code rdata s).fb = s.fb := rfl
@[simp] theorem answer_drv (code : RespCode) (rdata : Bit) (s : State) :
    (answer code rdata s).drv = s.drv := rfl
@[simp] theorem answer_err (code : RespCode) (rdata : Bit) (s : State) :
    (answer code rdata s).err = s.err := rfl
@[simp] theorem answer_errop (code : RespCode) (rdata : Bit) (s : State) :
    (answer code rdata s).errop = s.errop := rfl
@[simp] theorem answer_errxfer (code : RespCode) (rdata : Bit) (s : State) :
    (answer code rdata s).errxfer = s.errxfer := rfl
@[simp] theorem answer_busy (code : RespCode) (rdata : Bit) (s : State) :
    (answer code rdata s).busy = s.busy := rfl
@[simp] theorem answer_opc (code : RespCode) (rdata : Bit) (s : State) :
    (answer code rdata s).opc = s.opc := rfl
@[simp] theorem answer_stg (code : RespCode) (rdata : Bit) (s : State) :
    (answer code rdata s).stg = s.stg := rfl
@[simp] theorem answer_p (code : RespCode) (rdata : Bit) (s : State) :
    (answer code rdata s).p = s.p := rfl
@[simp] theorem answer_ph (code : RespCode) (rdata : Bit) (s : State) :
    (answer code rdata s).ph = s.ph := rfl
@[simp] theorem answer_bi (code : RespCode) (rdata : Bit) (s : State) :
    (answer code rdata s).bi = s.bi := rfl
@[simp] theorem answer_tmr (code : RespCode) (rdata : Bit) (s : State) :
    (answer code rdata s).tmr = s.tmr := rfl
@[simp] theorem answer_pinoe (code : RespCode) (rdata : Bit) (s : State) :
    (answer code rdata s).pinoe = s.pinoe := rfl
@[simp] theorem answer_dc (code : RespCode) (rdata : Bit) (s : State) :
    (answer code rdata s).dc = s.dc := rfl
@[simp] theorem answer_rstn (code : RespCode) (rdata : Bit) (s : State) :
    (answer code rdata s).rstn = s.rstn := rfl
@[simp] theorem answer_xfer (code : RespCode) (rdata : Bit) (s : State) :
    (answer code rdata s).xfer = s.xfer := rfl
@[simp] theorem answer_trace (code : RespCode) (rdata : Bit) (s : State) :
    (answer code rdata s).trace = s.trace := rfl
@[simp] theorem answer_tx (code : RespCode) (rdata : Bit) (s : State) :
    (answer code rdata s).tx = s.tx := rfl
@[simp] theorem answer_resps (code : RespCode) (rdata : Bit) (s : State) :
    (answer code rdata s).resps = s.resps ++ [⟨code, rdata⟩] := rfl
@[simp] theorem answer_session (code : RespCode) (rdata : Bit) (s : State) :
    (answer code rdata s).session = s.session := rfl
@[simp] theorem answer_inReset (code : RespCode) (rdata : Bit) (s : State) :
    (answer code rdata s).inReset = s.inReset := rfl
@[simp] theorem answer_inWords (code : RespCode) (rdata : Bit) (s : State) :
    (answer code rdata s).inWords = s.inWords := rfl
@[simp] theorem answer_inAcq (code : RespCode) (rdata : Bit) (s : State) :
    (answer code rdata s).inAcq = s.inAcq := rfl
@[simp] theorem answer_inXfer (code : RespCode) (rdata : Bit) (s : State) :
    (answer code rdata s).inXfer = s.inXfer := rfl
@[simp] theorem answer_inSamples (code : RespCode) (rdata : Bit) (s : State) :
    (answer code rdata s).inSamples = s.inSamples := rfl

@[simp] theorem respond_fb (code : RespCode) (rdata : Bit) (s : State) :
    (respond code rdata s).fb = s.fb := rfl
@[simp] theorem respond_drv (code : RespCode) (rdata : Bit) (s : State) :
    (respond code rdata s).drv = s.drv := rfl
@[simp] theorem respond_err (code : RespCode) (rdata : Bit) (s : State) :
    (respond code rdata s).err = s.err := rfl
@[simp] theorem respond_errop (code : RespCode) (rdata : Bit) (s : State) :
    (respond code rdata s).errop = s.errop := rfl
@[simp] theorem respond_errxfer (code : RespCode) (rdata : Bit) (s : State) :
    (respond code rdata s).errxfer = s.errxfer := rfl
@[simp] theorem respond_busy (code : RespCode) (rdata : Bit) (s : State) :
    (respond code rdata s).busy = false := rfl
@[simp] theorem respond_opc (code : RespCode) (rdata : Bit) (s : State) :
    (respond code rdata s).opc = 0#4 := rfl
@[simp] theorem respond_stg (code : RespCode) (rdata : Bit) (s : State) :
    (respond code rdata s).stg = s.stg := rfl
@[simp] theorem respond_p (code : RespCode) (rdata : Bit) (s : State) :
    (respond code rdata s).p = s.p := rfl
@[simp] theorem respond_ph (code : RespCode) (rdata : Bit) (s : State) :
    (respond code rdata s).ph = s.ph := rfl
@[simp] theorem respond_bi (code : RespCode) (rdata : Bit) (s : State) :
    (respond code rdata s).bi = s.bi := rfl
@[simp] theorem respond_tmr (code : RespCode) (rdata : Bit) (s : State) :
    (respond code rdata s).tmr = s.tmr := rfl
@[simp] theorem respond_pinoe (code : RespCode) (rdata : Bit) (s : State) :
    (respond code rdata s).pinoe = s.pinoe := rfl
@[simp] theorem respond_dc (code : RespCode) (rdata : Bit) (s : State) :
    (respond code rdata s).dc = s.dc := rfl
@[simp] theorem respond_rstn (code : RespCode) (rdata : Bit) (s : State) :
    (respond code rdata s).rstn = s.rstn := rfl
@[simp] theorem respond_xfer (code : RespCode) (rdata : Bit) (s : State) :
    (respond code rdata s).xfer = s.xfer := rfl
@[simp] theorem respond_trace (code : RespCode) (rdata : Bit) (s : State) :
    (respond code rdata s).trace = s.trace := rfl
@[simp] theorem respond_tx (code : RespCode) (rdata : Bit) (s : State) :
    (respond code rdata s).tx = s.tx := rfl
@[simp] theorem respond_resps (code : RespCode) (rdata : Bit) (s : State) :
    (respond code rdata s).resps = s.resps ++ [⟨code, rdata⟩] := rfl
@[simp] theorem respond_session (code : RespCode) (rdata : Bit) (s : State) :
    (respond code rdata s).session = s.session := rfl
@[simp] theorem respond_inReset (code : RespCode) (rdata : Bit) (s : State) :
    (respond code rdata s).inReset = s.inReset := rfl
@[simp] theorem respond_inWords (code : RespCode) (rdata : Bit) (s : State) :
    (respond code rdata s).inWords = s.inWords := rfl
@[simp] theorem respond_inAcq (code : RespCode) (rdata : Bit) (s : State) :
    (respond code rdata s).inAcq = s.inAcq := rfl
@[simp] theorem respond_inXfer (code : RespCode) (rdata : Bit) (s : State) :
    (respond code rdata s).inXfer = s.inXfer := rfl
@[simp] theorem respond_inSamples (code : RespCode) (rdata : Bit) (s : State) :
    (respond code rdata s).inSamples = s.inSamples := rfl

@[simp] theorem raise_fb (e : ErrorKind) (index : BitVec 5) (s : State) :
    (raise e index s).fb = s.fb := rfl
@[simp] theorem raise_drv (e : ErrorKind) (index : BitVec 5) (s : State) :
    (raise e index s).drv = .halted := rfl
@[simp] theorem raise_err (e : ErrorKind) (index : BitVec 5) (s : State) :
    (raise e index s).err = e := rfl
@[simp] theorem raise_errop (e : ErrorKind) (index : BitVec 5) (s : State) :
    (raise e index s).errop = s.opc := rfl
@[simp] theorem raise_errxfer (e : ErrorKind) (index : BitVec 5) (s : State) :
    (raise e index s).errxfer = index := rfl
@[simp] theorem raise_busy (e : ErrorKind) (index : BitVec 5) (s : State) :
    (raise e index s).busy = false := rfl
@[simp] theorem raise_opc (e : ErrorKind) (index : BitVec 5) (s : State) :
    (raise e index s).opc = 0#4 := rfl
@[simp] theorem raise_stg (e : ErrorKind) (index : BitVec 5) (s : State) :
    (raise e index s).stg = 0#3 := rfl
@[simp] theorem raise_p (e : ErrorKind) (index : BitVec 5) (s : State) :
    (raise e index s).p = 0#3 := rfl
@[simp] theorem raise_ph (e : ErrorKind) (index : BitVec 5) (s : State) :
    (raise e index s).ph = .cmd := rfl
@[simp] theorem raise_bi (e : ErrorKind) (index : BitVec 5) (s : State) :
    (raise e index s).bi = 0#7 := rfl
@[simp] theorem raise_tmr (e : ErrorKind) (index : BitVec 5) (s : State) :
    (raise e index s).tmr = 0 := rfl
@[simp] theorem raise_pinoe (e : ErrorKind) (index : BitVec 5) (s : State) :
    (raise e index s).pinoe = s.pinoe := rfl
@[simp] theorem raise_dc (e : ErrorKind) (index : BitVec 5) (s : State) :
    (raise e index s).dc = s.dc := rfl
@[simp] theorem raise_rstn (e : ErrorKind) (index : BitVec 5) (s : State) :
    (raise e index s).rstn = s.rstn := rfl
@[simp] theorem raise_xfer (e : ErrorKind) (index : BitVec 5) (s : State) :
    (raise e index s).xfer = .none := rfl
@[simp] theorem raise_trace (e : ErrorKind) (index : BitVec 5) (s : State) :
    (raise e index s).trace = s.trace := rfl
@[simp] theorem raise_tx (e : ErrorKind) (index : BitVec 5) (s : State) :
    (raise e index s).tx = s.tx := rfl
@[simp] theorem raise_resps (e : ErrorKind) (index : BitVec 5) (s : State) :
    (raise e index s).resps = s.resps ++ [⟨.fatal, 0#1⟩] := rfl
@[simp] theorem raise_session (e : ErrorKind) (index : BitVec 5) (s : State) :
    (raise e index s).session = s.session := rfl
@[simp] theorem raise_inReset (e : ErrorKind) (index : BitVec 5) (s : State) :
    (raise e index s).inReset = s.inReset := rfl
@[simp] theorem raise_inWords (e : ErrorKind) (index : BitVec 5) (s : State) :
    (raise e index s).inWords = s.inWords := rfl
@[simp] theorem raise_inAcq (e : ErrorKind) (index : BitVec 5) (s : State) :
    (raise e index s).inAcq = s.inAcq := rfl
@[simp] theorem raise_inXfer (e : ErrorKind) (index : BitVec 5) (s : State) :
    (raise e index s).inXfer = s.inXfer := rfl
@[simp] theorem raise_inSamples (e : ErrorKind) (index : BitVec 5) (s : State) :
    (raise e index s).inSamples = s.inSamples := rfl

@[simp] theorem beginSend_fb (m : Mode) (s : State) :
    (beginSend m s).fb = s.fb := rfl
@[simp] theorem beginSend_drv (m : Mode) (s : State) :
    (beginSend m s).drv = s.drv := rfl
@[simp] theorem beginSend_err (m : Mode) (s : State) :
    (beginSend m s).err = s.err := rfl
@[simp] theorem beginSend_errop (m : Mode) (s : State) :
    (beginSend m s).errop = s.errop := rfl
@[simp] theorem beginSend_errxfer (m : Mode) (s : State) :
    (beginSend m s).errxfer = s.errxfer := rfl
@[simp] theorem beginSend_busy (m : Mode) (s : State) :
    (beginSend m s).busy = s.busy := rfl
@[simp] theorem beginSend_opc (m : Mode) (s : State) :
    (beginSend m s).opc = s.opc := rfl
@[simp] theorem beginSend_stg (m : Mode) (s : State) :
    (beginSend m s).stg = s.stg := rfl
@[simp] theorem beginSend_p (m : Mode) (s : State) :
    (beginSend m s).p = s.p := rfl
@[simp] theorem beginSend_ph (m : Mode) (s : State) :
    (beginSend m s).ph = s.ph := rfl
@[simp] theorem beginSend_bi (m : Mode) (s : State) :
    (beginSend m s).bi = 0#7 := rfl
@[simp] theorem beginSend_tmr (m : Mode) (s : State) :
    (beginSend m s).tmr = s.tmr := rfl
@[simp] theorem beginSend_pinoe (m : Mode) (s : State) :
    (beginSend m s).pinoe = s.pinoe := rfl
@[simp] theorem beginSend_dc (m : Mode) (s : State) :
    (beginSend m s).dc = m := rfl
@[simp] theorem beginSend_rstn (m : Mode) (s : State) :
    (beginSend m s).rstn = s.rstn := rfl
@[simp] theorem beginSend_xfer (m : Mode) (s : State) :
    (beginSend m s).xfer = .offering := rfl
@[simp] theorem beginSend_trace (m : Mode) (s : State) :
    (beginSend m s).trace = s.trace ++ [.selLine m] := rfl
@[simp] theorem beginSend_tx (m : Mode) (s : State) :
    (beginSend m s).tx = s.tx := rfl
@[simp] theorem beginSend_resps (m : Mode) (s : State) :
    (beginSend m s).resps = s.resps := rfl
@[simp] theorem beginSend_session (m : Mode) (s : State) :
    (beginSend m s).session = s.session := rfl
@[simp] theorem beginSend_inReset (m : Mode) (s : State) :
    (beginSend m s).inReset = s.inReset := rfl
@[simp] theorem beginSend_inWords (m : Mode) (s : State) :
    (beginSend m s).inWords = s.inWords := rfl
@[simp] theorem beginSend_inAcq (m : Mode) (s : State) :
    (beginSend m s).inAcq = s.inAcq := rfl
@[simp] theorem beginSend_inXfer (m : Mode) (s : State) :
    (beginSend m s).inXfer = s.inXfer := rfl
@[simp] theorem beginSend_inSamples (m : Mode) (s : State) :
    (beginSend m s).inSamples = s.inSamples := rfl

@[simp] theorem endSend_fb (res : Result) (s : State) :
    (endSend res s).fb = s.fb := rfl
@[simp] theorem endSend_drv (res : Result) (s : State) :
    (endSend res s).drv = s.drv := rfl
@[simp] theorem endSend_err (res : Result) (s : State) :
    (endSend res s).err = s.err := rfl
@[simp] theorem endSend_errop (res : Result) (s : State) :
    (endSend res s).errop = s.errop := rfl
@[simp] theorem endSend_errxfer (res : Result) (s : State) :
    (endSend res s).errxfer = s.errxfer := rfl
@[simp] theorem endSend_busy (res : Result) (s : State) :
    (endSend res s).busy = s.busy := rfl
@[simp] theorem endSend_opc (res : Result) (s : State) :
    (endSend res s).opc = s.opc := rfl
@[simp] theorem endSend_stg (res : Result) (s : State) :
    (endSend res s).stg = s.stg := rfl
@[simp] theorem endSend_p (res : Result) (s : State) :
    (endSend res s).p = s.p := rfl
@[simp] theorem endSend_ph (res : Result) (s : State) :
    (endSend res s).ph = s.ph := rfl
@[simp] theorem endSend_bi (res : Result) (s : State) :
    (endSend res s).bi = 0#7 := rfl
@[simp] theorem endSend_tmr (res : Result) (s : State) :
    (endSend res s).tmr = s.tmr := rfl
@[simp] theorem endSend_pinoe (res : Result) (s : State) :
    (endSend res s).pinoe = s.pinoe := rfl
@[simp] theorem endSend_dc (res : Result) (s : State) :
    (endSend res s).dc = s.dc := rfl
@[simp] theorem endSend_rstn (res : Result) (s : State) :
    (endSend res s).rstn = s.rstn := rfl
@[simp] theorem endSend_xfer (res : Result) (s : State) :
    (endSend res s).xfer = .none := rfl
@[simp] theorem endSend_trace (res : Result) (s : State) :
    (endSend res s).trace = s.trace ++ [.xfer s.phaseMode (sendBytes s) res] := rfl
@[simp] theorem endSend_tx (res : Result) (s : State) :
    (endSend res s).tx = s.tx := rfl
@[simp] theorem endSend_resps (res : Result) (s : State) :
    (endSend res s).resps = s.resps := rfl
@[simp] theorem endSend_session (res : Result) (s : State) :
    (endSend res s).session = s.session := rfl
@[simp] theorem endSend_inReset (res : Result) (s : State) :
    (endSend res s).inReset = s.inReset := rfl
@[simp] theorem endSend_inWords (res : Result) (s : State) :
    (endSend res s).inWords = s.inWords := rfl
@[simp] theorem endSend_inAcq (res : Result) (s : State) :
    (endSend res s).inAcq = s.inAcq := rfl
@[simp] theorem endSend_inXfer (res : Result) (s : State) :
    (endSend res s).inXfer = s.inXfer.tail := rfl
@[simp] theorem endSend_inSamples (res : Result) (s : State) :
    (endSend res s).inSamples = s.inSamples := rfl

@[simp] theorem handByte_fb (b : Byte) (s : State) :
    (handByte b s).fb = s.fb := by unfold handByte; split <;> simp_all
@[simp] theorem handByte_drv (b : Byte) (s : State) :
    (handByte b s).drv = s.drv := by unfold handByte; split <;> simp_all
@[simp] theorem handByte_err (b : Byte) (s : State) :
    (handByte b s).err = s.err := by unfold handByte; split <;> simp_all
@[simp] theorem handByte_errop (b : Byte) (s : State) :
    (handByte b s).errop = s.errop := by unfold handByte; split <;> simp_all
@[simp] theorem handByte_errxfer (b : Byte) (s : State) :
    (handByte b s).errxfer = s.errxfer := by unfold handByte; split <;> simp_all
@[simp] theorem handByte_busy (b : Byte) (s : State) :
    (handByte b s).busy = s.busy := by unfold handByte; split <;> simp_all
@[simp] theorem handByte_opc (b : Byte) (s : State) :
    (handByte b s).opc = s.opc := by unfold handByte; split <;> simp_all
@[simp] theorem handByte_stg (b : Byte) (s : State) :
    (handByte b s).stg = s.stg := by unfold handByte; split <;> simp_all
@[simp] theorem handByte_p (b : Byte) (s : State) :
    (handByte b s).p = s.p := by unfold handByte; split <;> simp_all
@[simp] theorem handByte_ph (b : Byte) (s : State) :
    (handByte b s).ph = s.ph := by unfold handByte; split <;> simp_all
@[simp] theorem handByte_bi (b : Byte) (s : State) :
    (handByte b s).bi = if s.bi = s.lastIndex then s.bi else s.bi + 1#7 := by unfold handByte; split <;> simp_all
@[simp] theorem handByte_tmr (b : Byte) (s : State) :
    (handByte b s).tmr = s.tmr := by unfold handByte; split <;> simp_all
@[simp] theorem handByte_pinoe (b : Byte) (s : State) :
    (handByte b s).pinoe = s.pinoe := by unfold handByte; split <;> simp_all
@[simp] theorem handByte_dc (b : Byte) (s : State) :
    (handByte b s).dc = s.dc := by unfold handByte; split <;> simp_all
@[simp] theorem handByte_rstn (b : Byte) (s : State) :
    (handByte b s).rstn = s.rstn := by unfold handByte; split <;> simp_all
@[simp] theorem handByte_xfer (b : Byte) (s : State) :
    (handByte b s).xfer = if s.bi = s.lastIndex then .handed else s.xfer := by unfold handByte; split <;> simp_all
@[simp] theorem handByte_trace (b : Byte) (s : State) :
    (handByte b s).trace = s.trace := by unfold handByte; split <;> simp_all
@[simp] theorem handByte_tx (b : Byte) (s : State) :
    (handByte b s).tx = s.tx ++ [(s.dc, b)] := by unfold handByte; split <;> simp_all
@[simp] theorem handByte_resps (b : Byte) (s : State) :
    (handByte b s).resps = s.resps := by unfold handByte; split <;> simp_all
@[simp] theorem handByte_session (b : Byte) (s : State) :
    (handByte b s).session = s.session := by unfold handByte; split <;> simp_all
@[simp] theorem handByte_inReset (b : Byte) (s : State) :
    (handByte b s).inReset = s.inReset := by unfold handByte; split <;> simp_all
@[simp] theorem handByte_inWords (b : Byte) (s : State) :
    (handByte b s).inWords = s.inWords := by unfold handByte; split <;> simp_all
@[simp] theorem handByte_inAcq (b : Byte) (s : State) :
    (handByte b s).inAcq = s.inAcq := by unfold handByte; split <;> simp_all
@[simp] theorem handByte_inXfer (b : Byte) (s : State) :
    (handByte b s).inXfer = s.inXfer := by unfold handByte; split <;> simp_all
@[simp] theorem handByte_inSamples (b : Byte) (s : State) :
    (handByte b s).inSamples = s.inSamples := by unfold handByte; split <;> simp_all

@[simp] theorem driveReset_fb (level : Bit) (hold : BitVec 3) (s : State) :
    (driveReset level hold s).fb = s.fb := rfl
@[simp] theorem driveReset_drv (level : Bit) (hold : BitVec 3) (s : State) :
    (driveReset level hold s).drv = s.drv := rfl
@[simp] theorem driveReset_err (level : Bit) (hold : BitVec 3) (s : State) :
    (driveReset level hold s).err = s.err := rfl
@[simp] theorem driveReset_errop (level : Bit) (hold : BitVec 3) (s : State) :
    (driveReset level hold s).errop = s.errop := rfl
@[simp] theorem driveReset_errxfer (level : Bit) (hold : BitVec 3) (s : State) :
    (driveReset level hold s).errxfer = s.errxfer := rfl
@[simp] theorem driveReset_busy (level : Bit) (hold : BitVec 3) (s : State) :
    (driveReset level hold s).busy = s.busy := rfl
@[simp] theorem driveReset_opc (level : Bit) (hold : BitVec 3) (s : State) :
    (driveReset level hold s).opc = s.opc := rfl
@[simp] theorem driveReset_stg (level : Bit) (hold : BitVec 3) (s : State) :
    (driveReset level hold s).stg = hold := rfl
@[simp] theorem driveReset_p (level : Bit) (hold : BitVec 3) (s : State) :
    (driveReset level hold s).p = s.p := rfl
@[simp] theorem driveReset_ph (level : Bit) (hold : BitVec 3) (s : State) :
    (driveReset level hold s).ph = s.ph := rfl
@[simp] theorem driveReset_bi (level : Bit) (hold : BitVec 3) (s : State) :
    (driveReset level hold s).bi = s.bi := rfl
@[simp] theorem driveReset_tmr (level : Bit) (hold : BitVec 3) (s : State) :
    (driveReset level hold s).tmr = Config.rstHoldCycles := rfl
@[simp] theorem driveReset_pinoe (level : Bit) (hold : BitVec 3) (s : State) :
    (driveReset level hold s).pinoe = s.pinoe := rfl
@[simp] theorem driveReset_dc (level : Bit) (hold : BitVec 3) (s : State) :
    (driveReset level hold s).dc = s.dc := rfl
@[simp] theorem driveReset_rstn (level : Bit) (hold : BitVec 3) (s : State) :
    (driveReset level hold s).rstn = level := rfl
@[simp] theorem driveReset_xfer (level : Bit) (hold : BitVec 3) (s : State) :
    (driveReset level hold s).xfer = s.xfer := rfl
@[simp] theorem driveReset_trace (level : Bit) (hold : BitVec 3) (s : State) :
    (driveReset level hold s).trace = s.trace ++ [.rstLine level] := rfl
@[simp] theorem driveReset_tx (level : Bit) (hold : BitVec 3) (s : State) :
    (driveReset level hold s).tx = s.tx := rfl
@[simp] theorem driveReset_resps (level : Bit) (hold : BitVec 3) (s : State) :
    (driveReset level hold s).resps = s.resps := rfl
@[simp] theorem driveReset_session (level : Bit) (hold : BitVec 3) (s : State) :
    (driveReset level hold s).session = s.session := rfl
@[simp] theorem driveReset_inReset (level : Bit) (hold : BitVec 3) (s : State) :
    (driveReset level hold s).inReset = s.inReset := rfl
@[simp] theorem driveReset_inWords (level : Bit) (hold : BitVec 3) (s : State) :
    (driveReset level hold s).inWords = s.inWords := rfl
@[simp] theorem driveReset_inAcq (level : Bit) (hold : BitVec 3) (s : State) :
    (driveReset level hold s).inAcq = s.inAcq := rfl
@[simp] theorem driveReset_inXfer (level : Bit) (hold : BitVec 3) (s : State) :
    (driveReset level hold s).inXfer = s.inXfer := rfl
@[simp] theorem driveReset_inSamples (level : Bit) (hold : BitVec 3) (s : State) :
    (driveReset level hold s).inSamples = s.inSamples := rfl

@[simp] theorem endHold_fb (next : BitVec 3) (s : State) :
    (endHold next s).fb = s.fb := rfl
@[simp] theorem endHold_drv (next : BitVec 3) (s : State) :
    (endHold next s).drv = s.drv := rfl
@[simp] theorem endHold_err (next : BitVec 3) (s : State) :
    (endHold next s).err = s.err := rfl
@[simp] theorem endHold_errop (next : BitVec 3) (s : State) :
    (endHold next s).errop = s.errop := rfl
@[simp] theorem endHold_errxfer (next : BitVec 3) (s : State) :
    (endHold next s).errxfer = s.errxfer := rfl
@[simp] theorem endHold_busy (next : BitVec 3) (s : State) :
    (endHold next s).busy = s.busy := rfl
@[simp] theorem endHold_opc (next : BitVec 3) (s : State) :
    (endHold next s).opc = s.opc := rfl
@[simp] theorem endHold_stg (next : BitVec 3) (s : State) :
    (endHold next s).stg = next := rfl
@[simp] theorem endHold_p (next : BitVec 3) (s : State) :
    (endHold next s).p = s.p := rfl
@[simp] theorem endHold_ph (next : BitVec 3) (s : State) :
    (endHold next s).ph = s.ph := rfl
@[simp] theorem endHold_bi (next : BitVec 3) (s : State) :
    (endHold next s).bi = s.bi := rfl
@[simp] theorem endHold_tmr (next : BitVec 3) (s : State) :
    (endHold next s).tmr = 0 := rfl
@[simp] theorem endHold_pinoe (next : BitVec 3) (s : State) :
    (endHold next s).pinoe = s.pinoe := rfl
@[simp] theorem endHold_dc (next : BitVec 3) (s : State) :
    (endHold next s).dc = s.dc := rfl
@[simp] theorem endHold_rstn (next : BitVec 3) (s : State) :
    (endHold next s).rstn = s.rstn := rfl
@[simp] theorem endHold_xfer (next : BitVec 3) (s : State) :
    (endHold next s).xfer = s.xfer := rfl
@[simp] theorem endHold_trace (next : BitVec 3) (s : State) :
    (endHold next s).trace = s.trace ++ [.wait 100] := rfl
@[simp] theorem endHold_tx (next : BitVec 3) (s : State) :
    (endHold next s).tx = s.tx := rfl
@[simp] theorem endHold_resps (next : BitVec 3) (s : State) :
    (endHold next s).resps = s.resps := rfl
@[simp] theorem endHold_session (next : BitVec 3) (s : State) :
    (endHold next s).session = s.session := rfl
@[simp] theorem endHold_inReset (next : BitVec 3) (s : State) :
    (endHold next s).inReset = s.inReset := rfl
@[simp] theorem endHold_inWords (next : BitVec 3) (s : State) :
    (endHold next s).inWords = s.inWords := rfl
@[simp] theorem endHold_inAcq (next : BitVec 3) (s : State) :
    (endHold next s).inAcq = s.inAcq := rfl
@[simp] theorem endHold_inXfer (next : BitVec 3) (s : State) :
    (endHold next s).inXfer = s.inXfer := rfl
@[simp] theorem endHold_inSamples (next : BitVec 3) (s : State) :
    (endHold next s).inSamples = s.inSamples := rfl

@[simp] theorem hardwareReset_fb (s : State) :
    (hardwareReset s).fb = Framebuffer.atReset (s.session + 1) := rfl
@[simp] theorem hardwareReset_drv (s : State) :
    (hardwareReset s).drv = .uninitialized := rfl
@[simp] theorem hardwareReset_err (s : State) :
    (hardwareReset s).err = .none := rfl
@[simp] theorem hardwareReset_errop (s : State) :
    (hardwareReset s).errop = 0#4 := rfl
@[simp] theorem hardwareReset_errxfer (s : State) :
    (hardwareReset s).errxfer = 0#5 := rfl
@[simp] theorem hardwareReset_busy (s : State) :
    (hardwareReset s).busy = false := rfl
@[simp] theorem hardwareReset_opc (s : State) :
    (hardwareReset s).opc = 0#4 := rfl
@[simp] theorem hardwareReset_stg (s : State) :
    (hardwareReset s).stg = 0#3 := rfl
@[simp] theorem hardwareReset_p (s : State) :
    (hardwareReset s).p = 0#3 := rfl
@[simp] theorem hardwareReset_ph (s : State) :
    (hardwareReset s).ph = .cmd := rfl
@[simp] theorem hardwareReset_bi (s : State) :
    (hardwareReset s).bi = 0#7 := rfl
@[simp] theorem hardwareReset_tmr (s : State) :
    (hardwareReset s).tmr = 0 := rfl
@[simp] theorem hardwareReset_pinoe (s : State) :
    (hardwareReset s).pinoe = false := rfl
@[simp] theorem hardwareReset_dc (s : State) :
    (hardwareReset s).dc = Config.dcReset (s.session + 1) := rfl
@[simp] theorem hardwareReset_rstn (s : State) :
    (hardwareReset s).rstn = Config.rstnReset (s.session + 1) := rfl
@[simp] theorem hardwareReset_xfer (s : State) :
    (hardwareReset s).xfer = .none := rfl
@[simp] theorem hardwareReset_trace (s : State) :
    (hardwareReset s).trace = [] := rfl
@[simp] theorem hardwareReset_tx (s : State) :
    (hardwareReset s).tx = [] := rfl
@[simp] theorem hardwareReset_resps (s : State) :
    (hardwareReset s).resps = [] := rfl
@[simp] theorem hardwareReset_session (s : State) :
    (hardwareReset s).session = s.session + 1 := rfl
@[simp] theorem hardwareReset_inReset (s : State) :
    (hardwareReset s).inReset = false := rfl
@[simp] theorem hardwareReset_inWords (s : State) :
    (hardwareReset s).inWords = s.inWords := rfl
@[simp] theorem hardwareReset_inAcq (s : State) :
    (hardwareReset s).inAcq = s.inAcq := rfl
@[simp] theorem hardwareReset_inXfer (s : State) :
    (hardwareReset s).inXfer = s.inXfer := rfl
@[simp] theorem hardwareReset_inSamples (s : State) :
    (hardwareReset s).inSamples = s.inSamples := rfl

end Sys2Proof.Machine
end

