-- ==== Sys2Proof/Laws/Ops.lean ====
section
/-!
SUPPORT. For each shared operation one lemma that says everything it can do; later proofs cite it and do not unfold
the operation.
-/

namespace Sys2Proof.Machine

variable {s t : State}

/-- Acceptance, whole: not accepted in Halted, without effect while busy, run, or rejected. -/
theorem accept_eq (op : BitVec 4) (allowed : Bool) (run : State → State) (s : State) :
    (s.drv = .halted ∧ accept op allowed run s = .fault .halted) ∨
    (s.drv ≠ .halted ∧ s.busy = true ∧ accept op allowed run s = .next s) ∨
    (s.drv ≠ .halted ∧ s.busy = false ∧ allowed = true ∧
      accept op allowed run s = .next (run { s with busy := true, opc := op })) ∨
    (s.drv ≠ .halted ∧ s.busy = false ∧ allowed = false ∧
      accept op allowed run s = .next (answer .rejectedState 0#1 s)) := by
  unfold accept
  by_cases h : s.drv = .halted
  · simp [h]
  · cases hb : s.busy <;> cases allowed <;> simp [h]

/-- A ready block accepts an allowed operation. -/
theorem accept_ready (op : BitVec 4) (run : State → State) (h : s.Ready) :
    accept op true run s = .next (run { s with busy := true, opc := op }) := by
  simp [accept, h.1, h.2.1]

/-- A ready block rejects an operation its state does not allow. -/
theorem accept_rejects (op : BitVec 4) (run : State → State) (h : s.Ready) :
    accept op false run s = .next (answer .rejectedState 0#1 s) := by
  simp [accept, h.1, h.2.1]

/-- Emitting a command: the sequencer stands at it, and the byte is handed over. -/
theorem emitCommand_next (b : Byte) :
    emitCommand b s = .next t ↔ s.sendingCommand = true ∧ csByte s = b ∧ t = handByte b s := by
  unfold emitCommand
  cases h : s.sendingCommand <;> by_cases hb : csByte s = b <;> simp [hb]
  exact eq_comm

theorem emitCommand_here {b : Byte} (h : s.sendingCommand = true) (hb : csByte s = b) :
    emitCommand b s = .next (handByte b s) := (emitCommand_next b).2 ⟨h, hb, rfl⟩

/-- LDGRAY's second part ends the operation or leaves the state as it is. -/
theorem takeSamples_eq (s : State) :
    (8192 ≤ s.inSamples.length ∧ takeSamples s = respond .ok 0#1 { s with
      fb := grayFrame (s.inSamples.take 8192), inSamples := s.inSamples.drop 8192 }) ∨
    (s.inSamples.length < 8192 ∧ takeSamples s = s) := by
  unfold takeSamples
  by_cases h : 8192 ≤ s.inSamples.length
  · simp [h]
  · exact .inr ⟨by omega, by simp [h]⟩

/-- CONFIG's question is answered Ok, answered Fail, or not answered. -/
theorem askAcquisition_eq (s : State) :
    (s.inAcq = [] ∧ askAcquisition s = s) ∨
    (∃ rest, s.inAcq = .ok :: rest ∧ askAcquisition s =
      respond .ok 0#1 (emit .pinsOut { s with pinoe := true, drv := .configured, inAcq := rest })) ∨
    (∃ rest, s.inAcq = .fail :: rest ∧ askAcquisition s =
      raise .acquisitionFailure 0#5 { s with inAcq := rest }) := by
  unfold askAcquisition
  rcases h : s.inAcq with _ | ⟨_ | _, rest⟩ <;> simp

/-- INIT's stages after the first. -/
theorem initStage_next :
    initStage s = .next t ↔
      (s.stg = 1#3 ∧ t = endHold 2#3 s) ∨ (s.stg = 2#3 ∧ t = driveReset 1#1 3#3 s) ∨
      (s.stg = 3#3 ∧ t = beginSend .command (endHold 4#3 s)) := by
  unfold initStage
  by_cases h1 : s.stg = 1#3
  · simp [h1, eq_comm]
  · by_cases h2 : s.stg = 2#3
    · simp [h2, eq_comm]
    · by_cases h3 : s.stg = 3#3 <;> simp [h1, h2, h3, eq_comm]

/-- What may follow an answered transfer. -/
theorem afterTransfer_eq (res : Result) (s : State) :
    (res = .fail ∧ afterTransfer res s = raise .transferFailure s.xferIndex s) ∨
    (res = .ok ∧ s.opc = Opcode.init ∧
      afterTransfer res s = respond .ok 0#1 { s with stg := 0#3, drv := .displaying }) ∨
    (res = .ok ∧ s.opc ≠ Opcode.init ∧ s.ph = .cmd ∧
      afterTransfer res s = beginSend .data { s with ph := .data }) ∨
    (res = .ok ∧ s.opc ≠ Opcode.init ∧ s.ph = .data ∧ s.p = 7#3 ∧
      afterTransfer res s = respond .ok 0#1 { s with p := 0#3, ph := .cmd }) ∨
    (res = .ok ∧ s.opc ≠ Opcode.init ∧ s.ph = .data ∧ s.p ≠ 7#3 ∧
      afterTransfer res s = beginSend .command { s with p := s.p + 1#3, ph := .cmd }) := by
  unfold afterTransfer
  cases res
  · by_cases ho : s.opc = Opcode.init
    · simp [ho]
    · cases hp : s.ph
      · simp [ho]
      · by_cases h7 : s.p = 7#3 <;> simp [ho, h7]
  · simp

/-- A transfer without an answer holds the block; with one, the transfer ends. -/
theorem takeAnswer_eq (s : State) :
    (s.inXfer = [] ∧ takeAnswer s = s) ∨
    (∃ a rest, s.inXfer = a :: rest ∧ takeAnswer s = afterTransfer a.result (endSend a.result s)) := by
  unfold takeAnswer
  rcases s.inXfer with _ | ⟨a, rest⟩ <;> simp

/-- A command byte on offer decodes to the instruction that emits it. -/
theorem decodeWire_csByte (s : State) :
    (s.opc = Opcode.init ∧ decodeWire (csByte s) = .ok .dispon ∧ csByte s = Config.byteDispon) ∨
    (s.opc ≠ Opcode.init ∧ s.bi = 0#7 ∧ decodeWire (csByte s) = .ok (.setpage (~~~s.p)) ∧
      csByte s = Config.opSetpage + (~~~s.p).setWidth 8) ∨
    (s.opc ≠ Opcode.init ∧ s.bi = 1#7 ∧ decodeWire (csByte s) = .ok .setcollo ∧ csByte s = Config.byteCollo) ∨
    (s.opc ≠ Opcode.init ∧ s.bi ≠ 0#7 ∧ s.bi ≠ 1#7 ∧ decodeWire (csByte s) = .ok .setcolhi ∧
      csByte s = Config.byteColhi) := by
  have hp : ∀ p : BitVec 3, decodeWire (0b10110#5 ++ ~~~p) = .ok (.setpage (~~~p)) ∧
      (0b10110#5 ++ ~~~p : Byte) = Config.opSetpage + (~~~p).setWidth 8 := by decide
  unfold csByte
  by_cases ho : s.opc = Opcode.init
  · simp [ho]; decide
  · by_cases h0 : s.bi = 0#7
    · rw [if_neg ho, if_pos h0]
      exact .inr (.inl ⟨ho, h0, (hp s.p).1, (hp s.p).2⟩)
    · by_cases h1 : s.bi = 1#7
      · simp [ho, h1]; decide
      · simp [ho, h0, h1]; decide

/-- A command byte on offer is the meaning of its own instruction. -/
theorem exec_csByte (h : s.sendingCommand = true) :
    ∃ i, decodeWire (csByte s) = .ok i ∧ exec i s = .next (handByte (csByte s) s) := by
  rcases decodeWire_csByte s with ⟨_, hd, hb⟩ | ⟨_, _, hd, hb⟩ | ⟨_, _, hd, hb⟩ | ⟨_, _, _, hd, hb⟩ <;>
    exact ⟨_, hd, by rw [hb]; exact emitCommand_here h hb⟩

/-- The trace's position after one more event. -/
theorem tracePos_append (tr : List Event) (e : Event) :
    tracePos (tr ++ [e]) = (tracePos tr).bind fun p => traceStep p e := by
  simp [tracePos, List.foldlM_append]

end Sys2Proof.Machine
end

