-- ==== Sys2Proof/Laws/PerInstr.lean ====
section
/-!
SUPPORT. Statements for all instructions, one lemma per constructor.
-/

namespace Sys2Proof.Laws.Encodes

/-- The encoding of an instruction fits a row of the match and mask lists (30_encoding.md R62, R66). -/
def Statement (i : Instr) : Prop := (encode i).wellFormed = true

/-- A word fits a row when its bits under the mask, as a number's binary digits, are the row's. -/
theorem fits_of_digits {n : Nat} (r : Row n) (w : BitVec n)
    (h : ∀ k < n, r.mask.getLsbD k = true → decide (w.toNat / 2 ^ k % 2 = 1) = r.pattern.getLsbD k)
    (hp : r.fits r.pattern = true) : r.fits w = true := by
  rw [Row.fits, beq_iff_eq] at hp ⊢
  apply BitVec.eq_of_getLsbD_eq
  intro k hk
  rw [BitVec.getLsbD_and]
  cases hm : r.mask.getLsbD k
  · rw [← hp, BitVec.getLsbD_and, hm, Bool.and_false, Bool.and_false]
  · rw [Bool.and_true, BitVec.getLsbD, Nat.testBit_eq_decide_div_mod_eq]
    exact h k hk hm

theorem fbset (row : BitVec 6) (col : BitVec 7) (val : Bit) : Statement (.fbset row col val) := by
  refine List.any_eq_true.2 ⟨⟨0x10000000, 0xFFC080FE⟩, by simp [hostRows], fits_of_digits _ _ ?_ (by decide)⟩
  have := row.isLt
  have := col.isLt
  have := val.isLt
  have hn : (Opcode.fbset ++ 0#6 ++ row ++ 0#1 ++ col ++ 0#7 ++ val : HostWord).toNat
      = 0x10000000 + row.toNat * 65536 + col.toNat * 256 + val.toNat := by
    simp only [toNat_append_add, Opcode.fbset, BitVec.toNat_ofNat]
    omega
  rw [hn]
  intro k hk
  interval_cases k <;> intro hm <;> first | (exfalso; revert hm; decide) | (simp; omega)

theorem fbget (row : BitVec 6) (col : BitVec 7) : Statement (.fbget row col) := by
  refine List.any_eq_true.2 ⟨⟨0x20000000, 0xFFC080FF⟩, by simp [hostRows], fits_of_digits _ _ ?_ (by decide)⟩
  have := row.isLt
  have := col.isLt
  have hn : (Opcode.fbget ++ 0#6 ++ row ++ 0#1 ++ col ++ 0#8 : HostWord).toNat
      = 0x20000000 + row.toNat * 65536 + col.toNat * 256 := by
    simp only [toNat_append_add, Opcode.fbget, BitVec.toNat_ofNat]
    omega
  rw [hn]
  intro k hk
  interval_cases k <;> intro hm <;> first | (exfalso; revert hm; decide) | (simp; omega)

theorem fbclr : Statement .fbclr := by unfold Statement; decide

theorem ldgray (w h : BitVec 14) : Statement (.ldgray w h) := by
  refine List.any_eq_true.2 ⟨⟨0x40000000, 0xF0000000⟩, by simp [hostRows], fits_of_digits _ _ ?_ (by decide)⟩
  have := w.isLt
  have := h.isLt
  have hn : (Opcode.ldgray ++ w ++ h : HostWord).toNat = 0x40000000 + w.toNat * 16384 + h.toNat := by
    simp only [toNat_append_add, Opcode.ldgray, BitVec.toNat_ofNat]
    omega
  rw [hn]
  intro k hk
  interval_cases k <;> intro hm <;> first | (exfalso; revert hm; decide) | (simp; omega)

theorem config : Statement .config := by unfold Statement; decide

theorem init : Statement .init := by unfold Statement; decide

theorem render : Statement .render := by unfold Statement; decide

theorem setpage (d : BitVec 3) : Statement (.setpage d) := by
  revert d
  unfold Statement
  decide

theorem setcollo : Statement .setcollo := by unfold Statement; decide

theorem setcolhi : Statement .setcolhi := by unfold Statement; decide

theorem dispon : Statement .dispon := by unfold Statement; decide

end Sys2Proof.Laws.Encodes
end

