-- ==== Sys2Proof/Laws/Step.lean ====
section
/-!
SUPPORT. What a step can do, said once (`StepCase`, `step_cases`), and the small lemmas for runs of several steps.
-/

namespace Sys2Proof.Machine

variable {s t : State}

/-- `u` is the state in which the operation with opcode `op` asks its environment: just accepted from the word on the
port, or in flight and waiting. -/
inductive Begun (s : State) (op : BitVec 4) (fresh : Prop) : State → Prop
  | accepted (w : HostWord) (ws : List HostWord) (idle : s.busy = false) (word : s.inWords = w :: ws) (ok : fresh) :
      Begun s op fresh { s with inWords := ws, busy := true, opc := op }
  | waiting (busy : s.busy = true) (opc : s.opc = op) (still : s.xfer = .none) : Begun s op fresh s

/-- Every way a step can lead from `s` to a next state. -/
inductive StepCase (s : State) : State → Prop
  | reset (asserted : s.inReset = true) : StepCase s (hardwareReset s)
  | held : StepCase s s
  | rejectedEncoding (w ws) (idle : s.busy = false) (word : s.inWords = w :: ws) :
      StepCase s (answer .rejectedEncoding 0#1 { s with inWords := ws })
  | rejectedState (w ws) (idle : s.busy = false) (word : s.inWords = w :: ws) :
      StepCase s (answer .rejectedState 0#1 { s with inWords := ws })
  | fbset (w ws row col val) (idle : s.busy = false) (word : s.inWords = w :: ws)
      (dec : decodeHost w = .ok (.fbset row col val)) :
      StepCase s (respond .ok 0#1
        { s with inWords := ws, busy := true, opc := Opcode.fbset, fb := s.fb.write (cellAddr row col) val })
  | fbget (w ws bit) (idle : s.busy = false) (word : s.inWords = w :: ws) :
      StepCase s (respond .ok bit { s with inWords := ws, busy := true, opc := Opcode.fbget })
  | fbclr (w ws) (idle : s.busy = false) (word : s.inWords = w :: ws) (dec : decodeHost w = .ok .fbclr) :
      StepCase s (respond .ok 0#1 { s with inWords := ws, busy := true, opc := Opcode.fbclr, fb := [] })
  | wrongDimensions (w ws) (idle : s.busy = false) (word : s.inWords = w :: ws) :
      StepCase s (raise .dimensionMismatch 0#5 { s with inWords := ws, busy := true, opc := Opcode.ldgray })
  | samplesMissing (u) (at' : Begun s Opcode.ldgray
      (∃ w ws, s.inWords = w :: ws ∧ decodeHost w = .ok (.ldgray 128 64)) u) : StepCase s u
  | samplesTaken (u) (at' : Begun s Opcode.ldgray
      (∃ w ws, s.inWords = w :: ws ∧ decodeHost w = .ok (.ldgray 128 64)) u)
      (enough : 8192 ≤ u.inSamples.length) :
      StepCase s (respond .ok 0#1
        { u with fb := grayFrame (u.inSamples.take 8192), inSamples := u.inSamples.drop 8192 })
  | acqMissing (u) (at' : Begun s Opcode.config (s.drv = .uninitialized) u) : StepCase s u
  | acqOk (u rest) (at' : Begun s Opcode.config (s.drv = .uninitialized) u) :
      StepCase s (respond .ok 0#1 (emit .pinsOut { u with pinoe := true, drv := .configured, inAcq := rest }))
  | acqFail (u rest) (at' : Begun s Opcode.config (s.drv = .uninitialized) u) :
      StepCase s (raise .acquisitionFailure 0#5 { u with inAcq := rest })
  | initStart (w ws) (idle : s.busy = false) (word : s.inWords = w :: ws) (state : s.drv = .configured) :
      StepCase s (driveReset 0#1 1#3 { s with inWords := ws, busy := true, opc := Opcode.init })
  | initLowHeld (busy : s.busy = true) (opc : s.opc = Opcode.init) (still : s.xfer = .none) (stg : s.stg = 1#3) :
      StepCase s (endHold 2#3 s)
  | initRise (busy : s.busy = true) (opc : s.opc = Opcode.init) (still : s.xfer = .none) (stg : s.stg = 2#3) :
      StepCase s (driveReset 1#1 3#3 s)
  | initHighHeld (busy : s.busy = true) (opc : s.opc = Opcode.init) (still : s.xfer = .none) (stg : s.stg = 3#3) :
      StepCase s (beginSend .command (endHold 4#3 s))
  | renderStart (w ws) (idle : s.busy = false) (word : s.inWords = w :: ws) (state : s.drv = .displaying) :
      StepCase s (beginSend .command
        { s with inWords := ws, busy := true, opc := Opcode.render, p := 0#3, ph := .cmd })
  | commandByte (due : s.sendingCommand = true) : StepCase s (handByte (csByte s) s)
  | dataByte (due : s.sendingData = true) : StepCase s (handByte (peByte s) s)
  | answered (a rest) (sending : s.inTransfer = true) (ans : s.inXfer = a :: rest)
      (when' : s.xfer = .handed ∨ (s.xfer = .offering ∧ s.failedEarly = true)) :
      StepCase s (afterTransfer a.result (endSend a.result s))

/-- The moves of the sequencer. -/
theorem advance_next (h : advance s = .next t) :
    (s.inTransfer = true ∧ (s.xfer = .handed ∨ (s.xfer = .offering ∧ s.failedEarly = true)) ∧ t = takeAnswer s) ∨
    (s.sendingData = true ∧ t = handByte (peByte s) s) ∨
    (s.xfer = .none ∧ s.opc = Opcode.ldgray ∧ t = takeSamples s) ∨
    (s.xfer = .none ∧ s.opc = Opcode.config ∧ t = askAcquisition s) ∨
    (s.xfer = .none ∧ s.opc = Opcode.init ∧ initStage s = .next t) := by
  unfold advance at h
  split at h
  · rename_i hx
    split at h
    · rename_i hf
      simp only [Bool.and_eq_true] at hf
      cases h
      exact .inl ⟨hf.1, .inr ⟨hx, hf.2⟩, rfl⟩
    · split at h
      · rename_i hd
        cases h
        exact .inr (.inl ⟨hd, rfl⟩)
      · cases h
  · rename_i hx
    split at h
    · rename_i hf
      cases h
      exact .inl ⟨hf, .inl hx, rfl⟩
    · cases h
  · rename_i hx
    split at h
    · cases h; exact .inr (.inr (.inl ⟨hx, ‹_›, rfl⟩))
    · split at h
      · cases h; exact .inr (.inr (.inr (.inl ⟨hx, ‹_›, rfl⟩)))
      · split at h
        · exact .inr (.inr (.inr (.inr ⟨hx, ‹_›, h⟩)))
        · cases h

/-- What a host instruction does in a step from an idle block. -/
theorem exec_host_cases {w : HostWord} {ws : List HostWord} {i : Instr} (idle : s.busy = false)
    (word : s.inWords = w :: ws) (dec : decodeHost w = .ok i) (h : exec i { s with inWords := ws } = .next t) :
    StepCase s t := by
  have key : ∀ (op : BitVec 4) (al : Bool) (run : State → State),
      accept op al run { s with inWords := ws } = .next t →
      (al = true → StepCase s (run { s with inWords := ws, busy := true, opc := op })) → StepCase s t := by
    intro op al run ha hr
    rcases accept_eq op al run { s with inWords := ws } with ⟨_, e⟩ | ⟨_, hb, _⟩ | ⟨_, _, hal, e⟩ | ⟨_, _, _, e⟩
    · rw [e] at ha; cases ha
    · simp [idle] at hb
    · rw [e] at ha; cases ha; exact hr hal
    · rw [e] at ha; cases ha; exact .rejectedState w ws idle word
  have wire : ∀ b, emitCommand b { s with inWords := ws } = .next t → StepCase s t := by
    intro b hb
    have := ((emitCommand_next b).1 hb).1
    simp [State.sendingCommand, State.inTransfer, idle] at this
  cases i with
  | fbset row col val =>
    simp only [exec, execFbset] at h
    exact key _ _ _ h fun _ => .fbset w ws row col val idle word dec
  | fbget row col =>
    simp only [exec, execFbget] at h
    exact key _ _ _ h fun _ => .fbget w ws _ idle word
  | fbclr =>
    simp only [exec, execFbclr] at h
    exact key _ _ _ h fun _ => .fbclr w ws idle word dec
  | ldgray wd hd =>
    simp only [exec, execLdgray] at h
    refine key _ _ _ h fun _ => ?_
    split
    · rename_i hdim
      simp only [dimensionsLegal, Bool.and_eq_true, beq_iff_eq] at hdim
      obtain ⟨rfl, rfl⟩ := hdim
      have hb : Begun s Opcode.ldgray (∃ w ws, s.inWords = w :: ws ∧ decodeHost w = .ok (.ldgray 128 64))
          { s with inWords := ws, busy := true, opc := Opcode.ldgray } :=
        .accepted w ws idle word ⟨w, ws, word, dec⟩
      rcases takeSamples_eq { s with inWords := ws, busy := true, opc := Opcode.ldgray } with ⟨hn, e⟩ | ⟨_, e⟩
      · rw [e]; exact .samplesTaken _ hb hn
      · rw [e]; exact .samplesMissing _ hb
    · exact .wrongDimensions w ws idle word
  | config =>
    simp only [exec, execConfig] at h
    refine key _ _ _ h fun hu => ?_
    have hb : Begun s Opcode.config (s.drv = .uninitialized)
        { s with inWords := ws, busy := true, opc := Opcode.config } :=
      .accepted w ws idle word (by simpa using hu)
    rcases askAcquisition_eq { s with inWords := ws, busy := true, opc := Opcode.config } with
      ⟨_, e⟩ | ⟨rest, _, e⟩ | ⟨rest, _, e⟩ <;> rw [e]
    · exact .acqMissing _ hb
    · exact .acqOk _ rest hb
    · exact .acqFail _ rest hb
  | init =>
    simp only [exec, execInit] at h
    exact key _ _ _ h fun hu => .initStart w ws idle word (by simpa using hu)
  | render =>
    simp only [exec, execRender] at h
    exact key _ _ _ h fun hu => .renderStart w ws idle word (by simpa using hu)
  | setpage d => simp only [exec, execSetpage] at h; exact wire _ h
  | setcollo => simp only [exec, execSetcollo] at h; exact wire _ h
  | setcolhi => simp only [exec, execSetcolhi] at h; exact wire _ h
  | dispon => simp only [exec, execDispon] at h; exact wire _ h

/-- The inversion of a step. In every case but the reset no reset is asserted and the block is not Halted. -/
theorem step_cases (h : step s = .next t) :
    StepCase s t ∧ (s.inReset = false → s.drv ≠ .halted) := by
  unfold step at h
  split at h
  · rename_i hr
    cases h
    exact ⟨.reset hr, by simp [hr]⟩
  · rename_i hr
    unfold fetch at h
    by_cases hd : s.drv = .halted
    · rw [if_pos hd] at h; cases h
    rw [if_neg hd] at h
    refine ⟨?_, fun _ => hd⟩
    cases hb : s.busy
    · rw [hb, if_neg (by decide)] at h
      unfold fetchHost at h
      rcases hw : s.inWords with _ | ⟨w, ws⟩
      · rw [hw] at h; cases h; exact .held
      · rw [hw] at h
        dsimp only at h
        rcases hdec : decodeHost w with r | i
        · rw [hdec] at h; cases h; exact .rejectedEncoding w ws hb hw
        · rw [hdec] at h; exact exec_host_cases hb hw hdec h
    · rw [hb, if_pos rfl] at h
      unfold fetchSequencer at h
      by_cases hc : (s.sendingCommand && !s.failedEarly) = true
      · rw [if_pos hc] at h
        simp only [Bool.and_eq_true] at hc
        obtain ⟨i, hi, he⟩ := exec_csByte hc.1
        rw [hi] at h
        dsimp only at h
        rw [he] at h
        cases h
        exact .commandByte hc.1
      · rw [if_neg hc] at h
        rcases advance_next h with ⟨hi, hx, rfl⟩ | ⟨hd, rfl⟩ | ⟨hx, ho, rfl⟩ | ⟨hx, ho, rfl⟩ | ⟨hx, ho, hs⟩
        · rcases takeAnswer_eq s with ⟨_, e⟩ | ⟨a, rest, ha, e⟩ <;> rw [e]
          · exact .held
          · exact .answered a rest hi ha hx
        · exact .dataByte hd
        · rcases takeSamples_eq s with ⟨hn, e⟩ | ⟨_, e⟩ <;> rw [e]
          · exact .samplesTaken _ (.waiting hb ho hx) hn
          · exact .held
        · rcases askAcquisition_eq s with ⟨_, e⟩ | ⟨rest, _, e⟩ | ⟨rest, _, e⟩ <;> rw [e]
          · exact .held
          · exact .acqOk _ rest (.waiting hb ho hx)
          · exact .acqFail _ rest (.waiting hb ho hx)
        · rcases initStage_next.1 hs with ⟨h1, rfl⟩ | ⟨h2, rfl⟩ | ⟨h3, rfl⟩
          · exact .initLowHeld hb ho hx h1
          · exact .initRise hb ho hx h2
          · exact .initHighHeld hb ho hx h3

/-- An asserted hardware reset is the step. -/
theorem step_reset (hr : s.inReset = true) : step s = .next (hardwareReset s) := by
  unfold step
  rw [if_pos hr]

/-- A command byte that is due, with no early failure, is handed over. -/
theorem step_commandByte (hr : s.inReset = false) (hd : s.drv ≠ .halted) (hc : s.sendingCommand = true)
    (hf : s.failedEarly = false) : step s = .next (handByte (csByte s) s) := by
  have hb : s.busy = true := by
    simp only [State.sendingCommand, State.inTransfer, Bool.and_eq_true] at hc
    exact hc.1.1.1
  obtain ⟨i, hi, he⟩ := exec_csByte hc
  unfold step fetch fetchSequencer
  simp [hr, hd, hb, hc, hf, hi, he]

/-- A move of the sequencer that is no command byte is the step. -/
theorem step_advance (hr : s.inReset = false) (hd : s.drv ≠ .halted) (hb : s.busy = true)
    (hc : s.sendingCommand = false ∨ s.failedEarly = true) : step s = advance s := by
  unfold step fetch fetchSequencer
  rcases hc with hc | hc <;> simp [hr, hd, hb, hc]

/-- A run of no step. -/
theorem run_zero (s : State) : Host.Core.run Sys2Proof.core 0 s = .next s := rfl

/-- A run, one step at a time. -/
theorem run_step (k : Nat) (s : State) :
    Host.Core.run Sys2Proof.core (k + 1) s =
      match step s with
      | .next u => Host.Core.run Sys2Proof.core k u
      | .fault r => .fault r
      | .refused r => .refused r := by
  have h := Host.Core.run.eq_2 Sys2Proof.core s k
  rw [show Sys2Proof.core.step s = step s from rfl] at h
  refine h.trans ?_
  cases step s <;> rfl

/-- A run that begins with a step to `t`. -/
theorem run_succ {k : Nat} (h : step s = .next t) :
    Host.Core.run Sys2Proof.core (k + 1) s = Host.Core.run Sys2Proof.core k t := by
  rw [run_step, h]

/-- Runs compose. -/
theorem run_add {m n : Nat} (h : Host.Core.run Sys2Proof.core m s = .next t) :
    Host.Core.run Sys2Proof.core (m + n) s = Host.Core.run Sys2Proof.core n t := by
  induction m generalizing s with
  | zero => cases h; rw [Nat.zero_add]
  | succ m ih =>
    rw [Nat.succ_add, Nat.succ_eq_add_one, run_step]
    rw [run_step] at h
    rcases hs : step s with u | r | r
    · rw [hs] at h; exact ih h
    · rw [hs] at h; cases h
    · rw [hs] at h; cases h

end Sys2Proof.Machine
end

