-- ==== Sys2Proof/Tests/Slice0.lean ====
section
/-!
SUPPORT. The model's own tests, with expected results from the spec's vectors (95_test_vectors.md), and for every
statement with hypotheses a state and operands that meet them.
-/

namespace Sys2Proof.Tests

open Sys2Proof Sys2Proof.Machine

/-- A test of the next state. -/
def next (o : Out) (f : State → Bool) : Bool :=
  match o with
  | .next t => f t
  | _ => false

/-- Uninitialized, ready, with the free reset values set to something. -/
def idle : State := { State.reset with fb := [], dc := .data, rstn := 0#1 }

/-- Configured, ready. -/
def configured : State := { idle with drv := .configured, pinoe := true, trace := [.pinsOut] }

/-- Displaying, ready. -/
def displaying : State :=
  { idle with
    drv := .displaying, pinoe := true, rstn := 1#1, dc := .command
    trace := .pinsOut :: initEvents .ok, tx := [(.command, 0xAF#8)] }

/-- Halted by LDGRAY 64, 128. -/
def halted : State := { idle with drv := .halted, err := .dimensionMismatch, errop := 4#4 }

/-- RENDER in flight, a command transfer of page `p` at byte `bi`. -/
def sendingCmd (p : BitVec 3) (bi : BitVec 7) : State :=
  { displaying with busy := true, opc := 7#4, p := p, bi := bi, xfer := .offering }

/-- RENDER in flight, the data transfer of page `p` at byte `bi`. -/
def sendingData (p : BitVec 3) (bi : BitVec 7) : State :=
  { displaying with busy := true, opc := 7#4, p := p, ph := .data, bi := bi, xfer := .offering, dc := .data }

/-- INIT in flight, the DISPON transfer. -/
def sendingDispon : State :=
  { configured with busy := true, opc := 6#4, stg := 4#3, xfer := .offering, dc := .command, rstn := 1#1 }

/-- LDGRAY in flight, waiting for samples. -/
def loading : State := { idle with busy := true, opc := 4#4 }

/-- CONFIG in flight, waiting for its answer. -/
def asking : State := { idle with busy := true, opc := 5#4 }

/-- Ready, with 8192 samples there, all equal to `v`. -/
def supplied (v : Byte) : State := { idle with inSamples := List.replicate 8192 v }

theorem supplied_enough (v : Byte) : 8192 ≤ (supplied v).inSamples.length :=
  Nat.le_of_eq List.length_replicate.symm

theorem ready_supplied (v : Byte) : (supplied v).Ready := ⟨(nofun : Drv.uninitialized ≠ Drv.halted), rfl, rfl⟩

theorem ldgray_next (s : State) (h : s.Ready) : ∃ t, exec (.ldgray 128 64) s = .next t := by
  simp only [exec, execLdgray, accept_ready _ _ h]
  exact ⟨_, rfl⟩

theorem ready_idle : idle.Ready := ⟨by decide, rfl, rfl⟩
theorem ready_configured : configured.Ready := ⟨by decide, rfl, rfl⟩
theorem ready_displaying : displaying.Ready := ⟨by decide, rfl, rfl⟩
theorem atRest_idle : idle.AtRest := ⟨rfl, rfl, rfl, rfl, rfl, rfl⟩
theorem atRest_configured : configured.AtRest := ⟨rfl, rfl, rfl, rfl, rfl, rfl⟩
theorem atRest_displaying : displaying.AtRest := ⟨rfl, rfl, rfl, rfl, rfl, rfl⟩

/-! ## Decoding: words written out from the field tables of 30_encoding.md R62 and R66, bit by bit -/

/-- opcode 0001, 000000, row 37 = 100101, 0, col 64 = 1000000, 0000000, val 1 (V1: 0x10254001). -/
theorem test_decode_fbset :
    decodeHost 0b0001_000000_100101_0_1000000_0000000_1 = .ok (.fbset 37 64 1) ∧
    decodeHost 0x103F7F01 = .ok (.fbset 63 127 1) ∧ decodeHost 0x10030300 = .ok (.fbset 3 3 0) := by decide

/-- opcode 0010, 000000, row 8 = 001000, 0, col 5 = 0000101, 00000000 (V1: 0x20080500). -/
theorem test_decode_fbget :
    decodeHost 0b0010_000000_001000_0_0000101_00000000 = .ok (.fbget 8 5) ∧
    decodeHost 0x203F7F00 = .ok (.fbget 63 127) := by decide

/-- opcode 0011, 28 zeros (V1: 0x30000000). -/
theorem test_decode_fbclr : decodeHost 0b0011_0000000000000000000000000000 = .ok .fbclr := by decide

/-- opcode 0100, w 128 = 00000010000000, h 64 = 00000001000000 (V1: 0x40200040, 0x40100080, 0x40204040). -/
theorem test_decode_ldgray :
    decodeHost 0b0100_00000010000000_00000001000000 = .ok (.ldgray 128 64) ∧
    decodeHost 0x40100080 = .ok (.ldgray 64 128) ∧ decodeHost 0x40204040 = .ok (.ldgray 129 64) ∧
    decodeHost 0x4FFFFFFF = .ok (.ldgray 16383 16383) := by decide

/-- opcodes 0101, 0110, 0111, 28 zeros each (V1). -/
theorem test_decode_driver :
    decodeHost 0b0101_0000000000000000000000000000 = .ok .config ∧
    decodeHost 0b0110_0000000000000000000000000000 = .ok .init ∧
    decodeHost 0b0111_0000000000000000000000000000 = .ok .render := by decide

/-- The patterns of R66. -/
theorem test_decode_wire :
    decodeWire 0b10110_101 = .ok (.setpage 5) ∧ decodeWire 0b00000010 = .ok .setcollo ∧
    decodeWire 0b00010000 = .ok .setcolhi ∧ decodeWire 0b10101111 = .ok .dispon := by decide

/-- The words V1 lists as REJECTED_ENCODING. -/
theorem test_decode_rejects :
    decodeHost 0x00000000 = .error .reservedOpcode ∧ decodeHost 0x80000000 = .error .reservedOpcode ∧
    decodeHost 0xF0000000 = .error .reservedOpcode ∧ decodeHost 0x10000002 = .error .mustBeZeroBit ∧
    decodeHost 0x10008000 = .error .mustBeZeroBit ∧ decodeHost 0x10400000 = .error .mustBeZeroBit ∧
    decodeHost 0x20000001 = .error .mustBeZeroBit ∧ decodeHost 0x30000001 = .error .mustBeZeroBit ∧
    decodeHost 0x7FFFFFFF = .error .mustBeZeroBit := by decide

/-- Bytes the block never emits as commands: bit 3 of a SETPAGE byte (R66, R68), the neighbours of the constants. -/
theorem test_decode_wire_rejects :
    decodeWire 0xB8 = .error .notACommandByte ∧ decodeWire 0x00 = .error .notACommandByte ∧
    decodeWire 0x03 = .error .notACommandByte ∧ decodeWire 0x11 = .error .notACommandByte ∧
    decodeWire 0xAE = .error .notACommandByte := by decide

/-- Both spaces through the table's numbering. -/
theorem test_decodeTableWord :
    decodeTableWord 32 0x10254001 = some (.fbset 37 64 1) ∧ decodeTableWord 8 0xB3 = some (.setpage 3) ∧
    decodeTableWord 8 0x03 = none ∧ decodeTableWord 32 0 = none := by decide

/-! ## WellFormed smoke: for every check a word it refuses -/

/-- Reserved opcodes: 0 and 8 to 15. -/
theorem test_wf_opcode :
    ∀ op ∈ [0, 8, 9, 10, 11, 12, 13, 14, 15], (Encoded.host (BitVec.ofNat 32 (op * 2 ^ 28))).wellFormed = false := by
  decide

/-- FBSET: each must-be-zero bit. -/
theorem test_wf_fbset :
    (Encoded.host 0x103F7F01).wellFormed = true ∧
    ∀ k ∈ [1, 2, 3, 4, 5, 6, 7, 15, 22, 23, 24, 25, 26, 27],
      (Encoded.host (0x10000000 ||| 1 <<< k)).wellFormed = false := by decide

/-- FBGET: each must-be-zero bit. -/
theorem test_wf_fbget :
    (Encoded.host 0x203F7F00).wellFormed = true ∧
    ∀ k ∈ [0, 1, 2, 3, 4, 5, 6, 7, 15, 22, 23, 24, 25, 26, 27],
      (Encoded.host (0x20000000 ||| 1 <<< k)).wellFormed = false := by decide

/-- Format Z: each of the 28 bits, under each of the four opcodes. -/
theorem test_wf_formatZ :
    ∀ op ∈ [3, 5, 6, 7], ∀ k < 28,
      (Encoded.host (BitVec.ofNat 32 (op * 2 ^ 28 + 2 ^ k))).wellFormed = false := by decide

/-- Wire bytes: exactly the eleven of 20_memory.md R46 are legal. -/
theorem test_wf_wire : ∀ b : Byte, (Encoded.wire b).wellFormed = decide (b ∈ commandBytes) := by decide

/-! ## One step per instruction -/

/-- V3 steps 3 and 7 to 8: the cell is written; a second write restores the canonical form. -/
theorem test_fbset :
    next (exec (.fbset 8 5 1) idle) (fun t => t.fb == [(1029, 1#1)] && t.resps == [⟨.ok, 0⟩] && !t.busy) = true ∧
    next (exec (.fbset 8 5 0) { idle with fb := [(1029, 1#1)] }) (fun t => t.fb == []) = true := by decide

/-- V3 step 9: the last cell. -/
theorem test_fbset_last :
    next (exec (.fbset 63 127 1) { idle with fb := [(3, 1#1)] }) (fun t => t.fb == [(3, 1#1), (8191, 1#1)]) = true := by
  decide

/-- V3 steps 4 and 6: row and column are not interchangeable. -/
theorem test_fbget :
    next (exec (.fbget 8 5) { idle with fb := [(1029, 1#1)] }) (fun t => t.resps == [⟨.ok, 1⟩]) = true ∧
    next (exec (.fbget 5 8) { idle with fb := [(1029, 1#1)] }) (fun t => t.resps == [⟨.ok, 0⟩]) = true := by decide

/-- V3 step 1. -/
theorem test_fbclr :
    next (exec .fbclr { idle with fb := [(0, 1#1), (8191, 1#1)] })
      (fun t => t.fb == [] && t.resps == [⟨.ok, 0⟩]) = true := by decide

/-- S5: LDGRAY 64, 128 raises DimensionMismatch and takes no sample. -/
theorem test_ldgray_swapped :
    next (exec (.ldgray 64 128) { idle with fb := [(7, 1#1)], inSamples := [255] }) (fun t =>
      t.drv == .halted && t.err == .dimensionMismatch && t.errop == 4 && t.errxfer == 0 && t.resps == [⟨.fatal, 0⟩] &&
      t.fb == [(7, 1#1)] && t.inSamples == [255] && t.trace == []) = true := by decide

/-- V3: the second row starts at sample 128; 127 is off, 128 is on. -/
theorem test_grayFrame_rowMajor :
    grayFrame ([128, 127] ++ List.replicate 126 0 ++ [255]) = [(0, 1#1), (128, 1#1)] := by decide

/-- V10, V11: CONFIG with Ok and with Fail. -/
theorem test_config :
    next (exec .config { idle with inAcq := [.ok] }) (fun t =>
      t.drv == .configured && t.pinoe && t.trace == [.pinsOut] && t.resps == [⟨.ok, 0⟩]) = true ∧
    next (exec .config { idle with inAcq := [.fail] }) (fun t =>
      t.drv == .halted && t.err == .acquisitionFailure && t.errop == 5 && !t.pinoe && t.trace == [] &&
      t.resps == [⟨.fatal, 0⟩]) = true := by decide

/-- S9: the first event of INIT; V10: INIT in Displaying. -/
theorem test_init :
    next (exec .init configured) (fun t => t.trace == [.pinsOut, .rstLine 0] && t.rstn == 0 && t.busy) = true ∧
    next (exec .init displaying) (fun t => t.drv == .displaying && t.resps == [⟨.rejectedState, 0⟩]) = true := by
  decide

/-- V9: the first SEND of RENDER sets the selector line; V10: RENDER in Configured. -/
theorem test_render :
    next (exec .render { displaying with dc := .data })
      (fun t => t.trace == displaying.trace ++ [.selLine .command] && t.dc == .command && t.p == 0) = true ∧
    next (exec .render configured) (fun t => t.resps == [⟨.rejectedState, 0⟩] && !t.busy) = true := by decide

/-- V7: the first command byte of page 5 is B2, device page 2. -/
theorem test_setpage :
    next (exec (.setpage 2) (sendingCmd 5 0)) (fun t => t.tx == displaying.tx ++ [(.command, 0xB2)] && t.bi == 1)
      = true := by decide

/-- V7: byte 1 is 02. -/
theorem test_setcollo :
    next (exec .setcollo (sendingCmd 0 1)) (fun t => t.tx == displaying.tx ++ [(.command, 0x02)] && t.bi == 2)
      = true := by decide

/-- V7: byte 2 is 10, the last. -/
theorem test_setcolhi :
    next (exec .setcolhi (sendingCmd 7 2)) (fun t => t.tx == displaying.tx ++ [(.command, 0x10)] &&
      t.xfer == .handed) = true := by decide

/-- V7: the byte of INIT is AF. -/
theorem test_dispon :
    next (exec .dispon sendingDispon) (fun t => t.tx == [(.command, 0xAF)] && t.xfer == .handed) = true := by decide

/-! ## Steps -/

/-- Every row of the table runs as the first instruction after reset. -/
theorem test_withFetchWord :
    next (step (State.reset.withFetchWord 32 0x30000000)) (fun t => t.resps == [⟨.ok, 0⟩] && t.fb == []) = true ∧
    next (step (State.reset.withFetchWord 32 0x70000000)) (fun t => t.resps == [⟨.rejectedState, 0⟩]) = true ∧
    next (step (State.reset.withFetchWord 8 0xB5)) (fun t => t.tx == [(.command, 0xB5)]) = true ∧
    next (step (State.reset.withFetchWord 8 0x02)) (fun t => t.tx == [(.command, 0x02)]) = true ∧
    next (step (State.reset.withFetchWord 8 0x10)) (fun t => t.tx == [(.command, 0x10)]) = true ∧
    next (step (State.reset.withFetchWord 8 0xAF)) (fun t => t.tx == [(.command, 0xAF)]) = true := by decide

/-- V1, V10: the all-zero word is answered REJECTED_ENCODING. -/
theorem test_step_zeroWord :
    next (step { idle with inWords := [0] }) (fun t => t.resps == [⟨.rejectedEncoding, 0⟩] && t.inWords == [])
      = true := by decide

/-- V5: cell (8, 5) is bit 7 of data byte 122 of page 1. -/
theorem test_step_dataByte :
    next (step { sendingData 1 122 with fb := [(1029, 1#1)] })
      (fun t => t.tx == displaying.tx ++ [(.data, 0x80)] && t.bi == 123) = true := by decide

/-- V11: RENDER, transfer 14 fails. -/
theorem test_step_transferFailure :
    next (step { sendingCmd 7 2 with xfer := .handed, inXfer := [.fail 3] }) (fun t =>
      t.drv == .halted && t.err == .transferFailure && t.errop == 7 && t.errxfer == 14 && t.p == 0 && t.bi == 0 &&
      t.trace == displaying.trace ++ [.xfer .command [0xB0, 0x02, 0x10] .fail]) = true := by decide

/-- V8: the frame stream at some of its indices, all pixels off. -/
theorem test_frameByte :
    ([0, 1, 2, 3, 130, 131, 134, 262, 917, 918, 919, 920, 1047].map fun k => (frameMode k, frameByte [] k)) =
      [(.command, 0xB7), (.command, 0x02), (.command, 0x10), (.data, 0), (.data, 0), (.command, 0xB6), (.data, 0),
       (.command, 0xB5), (.command, 0xB0), (.command, 0x02), (.command, 0x10), (.data, 0), (.data, 0)] := by decide

/-- V5: single pixels at their place in the frame stream. -/
theorem test_frameByte_pixels :
    frameByte [(0, 1#1)] 130 = 0x80 ∧ frameByte [(127, 1#1)] 3 = 0x80 ∧ frameByte [(128 * 31 + 1, 1#1)] 522 = 0x01 ∧
    frameByte [(128 * 37 + 64, 1#1)] 590 = 0x04 ∧ frameByte [(128 * 63, 1#1)] 1047 = 0x01 ∧
    frameByte [(8191, 1#1)] 920 = 0x01 := by decide

/-- V4. -/
theorem test_pack8 :
    pack8 1 0 1 1 0 0 0 1 = 0xB1 ∧ pack8 0 1 1 1 1 1 1 1 = 0x7F ∧ unpack8 0xB1 = [1, 0, 1, 1, 0, 0, 0, 1] := by decide

/-! ## Witnesses: states and operands that meet the hypotheses of the statements -/

theorem witness_EncodeOfDecode :
    (∃ i, decode (.host 0x10254001) = .ok i) ∧ (∃ i, decode (.wire 0xB7) = .ok i) := ⟨⟨_, rfl⟩, ⟨_, rfl⟩⟩

theorem witness_StepRunsTheHostWord :
    let s := { displaying with inWords := [0x70000000, 0] }
    s.inReset = false ∧ s.drv ≠ .halted ∧ s.busy = false ∧ s.inWords = 0x70000000 :: [0] ∧
    decodeHost 0x70000000 = .ok .render := by decide

theorem witness_StepRunsTheCommandByte :
    (∀ s ∈ [sendingCmd 0 0, sendingCmd 7 2, sendingDispon],
      s.inReset = false ∧ s.drv ≠ .halted ∧ s.sendingCommand = true ∧ s.failedEarly = false) := by decide

theorem witness_IdleBlockDoesNothing :
    idle.inReset = false ∧ idle.drv ≠ .halted ∧ idle.busy = false ∧ idle.inWords = [] := by decide

/-- Pages 0 and 7 as CS meets them. -/
theorem witness_SetpageByteHasFourForms :
    (∀ s ∈ [sendingCmd 0 0, sendingCmd 7 0], s.opc = Opcode.render ∧ s.bi = 0#7) ∧
    (sendingCmd 0 0).p = 0#3 ∧ (sendingCmd 7 0).p = 7#3 := by decide

/-- A word for every clause. -/
theorem witness_ReservedWordsAreRejected :
    (∀ w : HostWord, { idle with inWords := [w] }.inReset = false ∧ { idle with inWords := [w] }.Ready) ∧
    (0x00000000#32 >>> 28 = 0 ∧ 8 ≤ 0x80000000#32 >>> 28 ∧ 8 ≤ 0xF0000000#32 >>> 28) ∧
    (0x10000002#32 >>> 28 = 1 ∧ 0x10000002#32 &&& 0x0FC080FE ≠ 0) ∧
    (0x20000001#32 >>> 28 = 2 ∧ 0x20000001#32 &&& 0x0FC080FF ≠ 0) ∧
    (0x7FFFFFFF#32 >>> 28 = 7 ∧ 0x7FFFFFFF#32 &&& 0x0FFFFFFF ≠ 0) ∧
    (0x4020003F#32 >>> 28 = 4 ∧ 0x4020003F#32 ≠ 0x40200040#32) ∧ 0x40200040#32 >>> 28 = 4 :=
  ⟨fun _ => ⟨rfl, ready_idle⟩, by decide⟩

theorem witness_OperationsByDriverState :
    (idle.Ready ∧ idle.drv = .uninitialized) ∧ (configured.Ready ∧ configured.drv = .configured) ∧
    (displaying.Ready ∧ displaying.drv = .displaying) ∧ halted.drv = .halted ∧
    encode .fbclr = .host 0x30000000 :=
  ⟨⟨ready_idle, rfl⟩, ⟨ready_configured, rfl⟩, ⟨ready_displaying, rfl⟩, rfl, rfl⟩

theorem witness_BusyBlockTakesNoWord :
    (sendingCmd 0 0).inReset = false ∧ (sendingCmd 0 0).busy = true ∧ (sendingCmd 0 0).opc ≠ Opcode.ldgray ∧
    (∃ t, step (sendingCmd 0 0) = .next t) ∧ loading.busy = true ∧ (∃ t, step loading = .next t) :=
  ⟨rfl, rfl, by decide, ⟨_, rfl⟩, rfl, ⟨_, rfl⟩⟩

theorem witness_OneResponsePerAcceptedWord :
    ∃ t, step { idle with inWords := [0x20000000] } = .next t ∧ t.resps.length = 1 := ⟨_, rfl, rfl⟩

theorem witness_FbsetWritesOneCell : idle.Ready ∧ idle.fb.wf = true := ⟨ready_idle, rfl⟩

theorem witness_FbgetAnswersTheCell : displaying.Ready := ready_displaying

theorem witness_FbclrTurnsEveryCellOff : displaying.Ready := ready_displaying

theorem witness_LdgrayLoadsTheSamples :
    (supplied 0).Ready ∧ 8192 ≤ (supplied 0).inSamples.length := ⟨ready_supplied 0, supplied_enough 0⟩

theorem witness_LdgrayWrongDimensionsHalt :
    idle.Ready ∧ idle.AtRest ∧ ((64#14 : BitVec 14) ≠ 128 ∨ (128#14 : BitVec 14) ≠ 64) ∧
    ((128#14 : BitVec 14) ≠ 128 ∨ (63#14 : BitVec 14) ≠ 64) := ⟨ready_idle, atRest_idle, by decide, by decide⟩

theorem witness_LdgrayWaitsForSamples :
    (idle.Ready ∧ idle.inSamples.length < 8192) ∧
    (loading.inReset = false ∧ loading.drv ≠ .halted ∧ loading.busy = true ∧ loading.opc = 4#4 ∧
      loading.xfer = .none ∧ loading.inSamples.length < 8192) ∧
    8192 ≤ { loading with inSamples := (supplied 255).inSamples }.inSamples.length :=
  ⟨⟨ready_idle, by decide⟩, by decide, supplied_enough 255⟩

theorem witness_FramebufferIsAnArray :
    idle.Ready ∧ idle.fb.wf = true ∧ (∃ t, exec (.fbset 8 5 1) idle = .next t) ∧
    ((5#6, 8#7) ≠ ((8#6, 5#7) : BitVec 6 × BitVec 7)) ∧ idle.AnswersFbget 5 8 0 ∧ (∃ t, exec .fbclr idle = .next t) ∧
    (∃ t, exec (.ldgray 128 64) (supplied 255) = .next t) ∧ 8192 ≤ (supplied 255).inSamples.length ∧
    (∃ t, exec .render displaying = .next t) ∧
    (∃ v, step (sendingData 0 0) = .next v) ∧ (sendingData 0 0).opc ≠ Opcode.ldgray :=
  ⟨ready_idle, rfl, ⟨_, rfl⟩, by decide, rfl, ⟨_, rfl⟩, ldgray_next _ (ready_supplied 255),
    supplied_enough 255, ⟨_, rfl⟩, ⟨_, rfl⟩, by decide⟩

/-- From an idle block and from one that waits for samples. -/
theorem witness_OnlyThreeOperationsWriteTheFramebuffer :
    (∃ t, step { idle with inWords := [0x10000001] } = .next t ∧ t.fb ≠ idle.fb) ∧
    (∃ t, step { idle with fb := [(0, 1#1)], inWords := [0x30000000] } = .next t ∧ t.fb ≠ [(0, 1#1)]) :=
  ⟨⟨_, rfl, by decide⟩, ⟨_, rfl, by decide⟩⟩

/-- The last page, its last column; and two framebuffers that differ on page 0 only, seen from page 7. -/
theorem witness_PageDataIsMirroredColumns :
    (7 < 8 ∧ 127 < 128) ∧
    (∀ q < 8, ∀ c < 128, Framebuffer.pixel [(0, 1#1)] (8 * 7 + q) c = Framebuffer.pixel [] (8 * 7 + q) c) := by
  refine ⟨by decide, fun q hq c hc => ?_⟩
  simp only [Framebuffer.pixel, Framebuffer.read]
  rw [if_neg (by omega)]

/-- The corners of the grid. -/
theorem witness_PixelToWireMapping :
    (63 < 64 ∧ 127 < 128 ∧ 131 * (63 / 8) + 3 + (127 - 127) = 920) ∧ 131 * (63 / 8) + 3 + (127 - 0) = 1047 := by decide

/-- Two different canonical framebuffers exist; the first clause is about pairs such as a framebuffer and itself. -/
theorem witness_EncodingIsABijection :
    Framebuffer.wf [] = true ∧ Framebuffer.wf [(8191, 1#1)] = true ∧ (∀ p < 8, pageData [] p = pageData [] p) :=
  ⟨rfl, by decide, fun _ _ => rfl⟩

theorem witness_OnePixelLightsOneBit :
    ∀ r' < 64, ∀ c' < 128,
      Framebuffer.pixel [(8191, 1#1)] r' c' = if r' = 63 ∧ c' = 127 then 1#1 else 0#1 := by
  intro r hr c hc
  simp only [Framebuffer.pixel, Framebuffer.read, Framebuffer.unlisted]
  congr 1
  simp only [eq_iff_iff]
  omega

theorem witness_EncodingIsBitwise :
    (∀ r < 64, ∀ c < 128, Framebuffer.pixel [] r c = Framebuffer.pixel [] r c ||| Framebuffer.pixel [] r c) ∧
    (∀ r < 64, ∀ c < 128, Framebuffer.pixel [] r c = Framebuffer.pixel [] r c &&& Framebuffer.pixel [] r c) ∧
    (∀ r < 64, ∀ c < 128,
      (grayFrame (List.replicate 8192 255#8)).pixel r c = ~~~(Framebuffer.pixel [] r c)) := by
  refine ⟨fun _ _ _ _ => BitVec.or_self.symm, fun _ _ _ _ => BitVec.and_self.symm, fun r hr c hc => ?_⟩
  unfold Framebuffer.pixel
  have hl : (List.replicate 8192 (255#8 : Byte)).length = 8192 := List.length_replicate
  rw [Framebuffer.read_grayFrame _ (by rw [hl]) _ (by rw [hl]; omega), Framebuffer.read_nil]
  rw [List.getD, List.getElem?_replicate, if_pos (by omega)]
  decide

theorem witness_CsOffersTheTransferBytes :
    ((sendingCmd 5 2).opc = Opcode.render ∧ (sendingCmd 5 2).ph = .cmd ∧ (sendingCmd 5 2).bi ≤ 2#7) ∧
    sendingDispon.opc = Opcode.init := by decide

theorem witness_SetpageIsEmittedFirst :
    (sendingCmd 5 0).sendingCommand = true ∧ (sendingCmd 5 0).opc = Opcode.render ∧ (sendingCmd 5 0).bi = 0#7 ∧
    2#3 = 7#3 - (sendingCmd 5 0).p ∧ (∃ t, exec (.setpage 2) (sendingCmd 5 0) = .next t) :=
  ⟨rfl, rfl, rfl, rfl, ⟨_, rfl⟩⟩

theorem witness_SetcolloIsEmittedSecond :
    (sendingCmd 5 1).sendingCommand = true ∧ (sendingCmd 5 1).opc = Opcode.render ∧ (sendingCmd 5 1).bi = 1#7 ∧
    (∃ t, exec .setcollo (sendingCmd 5 1) = .next t) := ⟨rfl, rfl, rfl, ⟨_, rfl⟩⟩

theorem witness_SetcolhiIsEmittedThird :
    (sendingCmd 5 2).sendingCommand = true ∧ (sendingCmd 5 2).opc = Opcode.render ∧ (sendingCmd 5 2).bi = 2#7 ∧
    (sendingCmd 5 2).bi ≤ (sendingCmd 5 2).lastIndex ∧ (∃ t, exec .setcolhi (sendingCmd 5 2) = .next t) :=
  ⟨rfl, rfl, rfl, by decide, ⟨_, rfl⟩⟩

theorem witness_DisponIsEmittedByInit :
    sendingDispon.sendingCommand = true ∧ sendingDispon.opc = Opcode.init ∧ sendingDispon.bi = 0#7 ∧
    (∃ t, exec .dispon sendingDispon = .next t) := ⟨rfl, rfl, rfl, ⟨_, rfl⟩⟩

/-- At the first byte and at the last. -/
theorem witness_DataBytesLeaveInOrder :
    ∀ s ∈ [sendingData 0 0, sendingData 7 127],
      s.inReset = false ∧ s.drv ≠ .halted ∧ s.sendingData = true ∧ s.failedEarly = false := by decide

theorem witness_TransferIsHandedOverWhole :
    ∀ s ∈ [sendingCmd 0 0, sendingData 7 0],
      s.inReset = false ∧ s.drv ≠ .halted ∧ s.busy = true ∧ s.opc = Opcode.render ∧ s.xfer = .offering ∧
      s.bi = 0#7 ∧ s.inXfer.head? = none := by decide

theorem witness_UnansweredTransferHolds :
    let s := { sendingData 7 127 with xfer := .handed }
    s.inReset = false ∧ s.drv ≠ .halted ∧ s.inTransfer = true ∧ s.xfer = .handed ∧ s.inXfer = [] := by decide

/-- After all bytes, early, and with no byte taken. -/
theorem witness_FailedTransferHalts :
    (let s := { sendingData 7 127 with xfer := .handed, inXfer := [.fail 128] }
     s.inReset = false ∧ s.drv ≠ .halted ∧ s.inTransfer = true ∧ s.inXfer = .fail 128 :: [] ∧ s.xfer = .handed) ∧
    (let s := { sendingCmd 0 0 with inXfer := [.fail 0] }
     s.inReset = false ∧ s.drv ≠ .halted ∧ s.inTransfer = true ∧ s.inXfer = .fail 0 :: [] ∧ s.xfer = .offering ∧
       0 ≤ s.bi.toNat) := by decide

theorem witness_ConfigConfigures :
    let s := { idle with inAcq := [.ok] }
    s.Ready ∧ s.drv = .uninitialized ∧ s.inAcq = .ok :: [] := ⟨ready_idle, rfl, rfl⟩

theorem witness_ConfigFailureHalts :
    let s := { idle with inAcq := [.fail] }
    s.Ready ∧ s.AtRest ∧ s.drv = .uninitialized ∧ s.inAcq = .fail :: [] := ⟨ready_idle, atRest_idle, rfl, rfl⟩

theorem witness_ConfigWaitsForItsAnswer :
    (idle.Ready ∧ idle.drv = .uninitialized ∧ idle.inAcq = []) ∧
    (asking.inReset = false ∧ asking.drv ≠ .halted ∧ asking.busy = true ∧ asking.opc = 5#4 ∧ asking.xfer = .none ∧
      asking.inAcq = []) ∧
    { asking with inAcq := [.ok] }.inAcq = .ok :: [] ∧ { asking with inAcq := [.fail] }.inAcq = .fail :: [] :=
  ⟨⟨ready_idle, rfl, rfl⟩, by decide, rfl, rfl⟩

theorem witness_InitBringsUpTheDisplay :
    let s := { configured with inXfer := [.ok] }
    s.inReset = false ∧ s.Ready ∧ s.AtRest ∧ s.drv = .configured ∧ s.inXfer = .ok :: [] :=
  ⟨rfl, ready_configured, atRest_configured, rfl, rfl⟩

/-- With the byte taken and without. -/
theorem witness_InitFailureHalts :
    ∀ taken ∈ [0, 1],
      let s := { configured with inXfer := [.fail taken] }
      s.inReset = false ∧ s.Ready ∧ s.AtRest ∧ s.drv = .configured ∧ s.inXfer = .fail taken :: [] :=
  fun _ _ => ⟨rfl, ready_configured, atRest_configured, rfl, rfl⟩

theorem witness_RenderSendsTheWholeFrame :
    let s := { displaying with inXfer := List.replicate 16 XferAnswer.ok }
    s.inReset = false ∧ s.Ready ∧ s.AtRest ∧ s.drv = .displaying ∧
      s.inXfer = List.replicate 16 XferAnswer.ok ++ [] :=
  ⟨rfl, ready_displaying, atRest_displaying, rfl, rfl⟩

/-- The first transfer, and the last. -/
theorem witness_RenderStopsAtTheFirstFailure :
    ∀ n ∈ [0, 15],
      let s := { displaying with inXfer := List.replicate n XferAnswer.ok ++ [XferAnswer.fail 2] }
      s.inReset = false ∧ s.Ready ∧ s.AtRest ∧ s.drv = .displaying ∧ n < 16 ∧
        s.inXfer = List.replicate n XferAnswer.ok ++ .fail 2 :: [] := by
  intro n hn
  exact ⟨rfl, ready_displaying, atRest_displaying, rfl, by simp at hn; omega, rfl⟩

/-- Idle, and with a RENDER in flight. -/
theorem witness_HardwareResetStartsASession :
    { idle with inReset := true }.inReset = true ∧ { sendingData 3 17 with inReset := true }.inReset = true ∧
    { halted with inReset := true }.inReset = true := by decide

theorem witness_OnlyResetLeavesHalted :
    halted.drv = .halted ∧ halted.inReset = false ∧ (∃ t, step { halted with inReset := true } = .next t) :=
  ⟨rfl, rfl, ⟨_, rfl⟩⟩

/-- The errors of V11: CONFIG, INIT, RENDER and LDGRAY halt the block. -/
theorem witness_ErrorsAreWrittenOnlyOnHalting :
    (∃ t, step { idle with inWords := [0x40100080] } = .next t ∧ t.err ≠ idle.err) ∧
    (∃ t, step { sendingCmd 7 2 with xfer := .handed, inXfer := [.fail 3] } = .next t ∧ t.errxfer ≠ 0#5) :=
  ⟨⟨_, rfl, by decide⟩, ⟨_, rfl, by decide⟩⟩

theorem witness_OutOfRangeIsNeverRaised :
    idle.err ≠ .outOfRange ∧ (∃ t, step { idle with inWords := [0x103F7F01] } = .next t) := ⟨by decide, ⟨_, rfl⟩⟩

/-- Both clauses: undriven lines become driven, driven lines stay. -/
theorem witness_LinesStayDriven :
    (∃ t, step { idle with inWords := [0x50000000], inAcq := [.ok] } = .next t ∧ idle.pinoe = false ∧
      t.pinoe = true) ∧
    (∃ t, step { displaying with inWords := [0x40000000] } = .next t ∧ displaying.pinoe = true) :=
  ⟨⟨_, rfl, rfl, rfl⟩, ⟨_, rfl, rfl⟩⟩

theorem witness_SelectorMovesOnlyAtASend :
    ∃ t, step { displaying with dc := .data, inWords := [0x70000000] } = .next t ∧ t.dc ≠ .data :=
  ⟨_, rfl, by decide⟩

theorem witness_ResetLineMovesOnlyInInit :
    ∃ t, step { configured with rstn := 1#1, inWords := [0x60000000] } = .next t ∧ t.rstn ≠ 1#1 :=
  ⟨_, rfl, by decide⟩

/-- Every clause of the invariant holds of a block that shows a frame. -/
theorem inv_displaying : displaying.Inv where
  memory := rfl
  rest := fun _ => ⟨rfl, atRest_displaying⟩
  running := nofun
  noError := by decide
  halted := fun h => absurd h (by decide)
  undriven := by decide
  driven := by decide
  resetHigh := by decide
  commands := by
    intro b hb
    simp only [displaying, List.mem_singleton, Prod.mk.injEq, true_and] at hb
    subst hb
    decide
  order := by decide
  haltedOrder := by decide

/-- The invariant holds in Halted too. -/
theorem inv_halted : halted.Inv where
  memory := rfl
  rest := fun _ => ⟨rfl, rfl, rfl, rfl, rfl, rfl, rfl⟩
  running := nofun
  noError := fun h => absurd rfl h
  halted := fun _ => ⟨rfl, .inr (.inr (.inr ⟨rfl, rfl, rfl⟩))⟩
  undriven := by decide
  driven := by decide
  resetHigh := by decide
  commands := by
    intro b hb
    exact absurd hb (List.not_mem_nil)
  order := by decide
  haltedOrder := by decide

/-- A block that has sent 0xAF, and the split of its trace at that transfer. -/
theorem witness_SessionInitialisesOnce :
    displaying.Inv ∧
    displaying.trace = [.pinsOut, .rstLine 0, .wait 100, .rstLine 1, .wait 100, .selLine .command] ++
      .xfer .command [0xAF#8] .ok :: [] := ⟨inv_displaying, rfl⟩

/-- A block in the data transfer of page 0, and the split of its trace at a page's command transfer. -/
theorem witness_SessionInitialisesOnce_page :
    ∃ s : State, s.Inv ∧
      s.trace = displaying.trace ++ [.selLine .command] ++ .xfer .command (pageCmd 0) .ok :: [.selLine .data] := by
  refine ⟨{ sendingData 0 0 with
    trace := displaying.trace ++ [.selLine .command] ++ .xfer .command (pageCmd 0) .ok :: [.selLine .data] }, ?_, rfl⟩
  have h := inv_displaying
  exact
    { memory := h.memory
      rest := nofun
      running := fun _ => .inr (.inr (.inr ⟨rfl, rfl, rfl, rfl, nofun, rfl, by decide, nofun⟩))
      noError := fun _ => ⟨rfl, rfl, rfl⟩
      halted := nofun
      undriven := nofun
      driven := fun _ => rfl
      resetHigh := fun _ => rfl
      commands := h.commands
      order := by decide
      haltedOrder := nofun }

theorem witness_StepKeepsInvariant :
    displaying.Inv ∧ (∃ t, step displaying = .next t) ∧ halted.Inv ∧
    (∃ t, step { halted with inReset := true } = .next t) :=
  ⟨inv_displaying, ⟨_, rfl⟩, inv_halted, ⟨_, rfl⟩⟩

theorem witness_OnlyHaltedStops : displaying.Inv ∧ halted.Inv := ⟨inv_displaying, inv_halted⟩

/-- A change of DRV under the invariant: LDGRAY 0, 0 in Displaying. -/
theorem witness_DriverStateMovesAlongTheGraph :
    { displaying with inWords := [0x40000000] }.Inv ∧
    ∃ t, step { displaying with inWords := [0x40000000] } = .next t ∧ t.drv ≠ .displaying := by
  have h := inv_displaying
  exact ⟨⟨h.memory, h.rest, h.running, h.noError, h.halted, h.undriven, h.driven, h.resetHigh, h.commands, h.order,
    h.haltedOrder⟩, _, rfl, by decide⟩

end Sys2Proof.Tests
end

section
/-!
PROOFS. The state (10_state.md): the invariant of the machine, and which steps write the framebuffer, DRV, the error
registers and the two lines.
-/

namespace Sys2Proof.Machine

variable {s t u : State}

/-! ## What leaves the registers alone -/

/-- The state an operation asks its environment in differs from the state before the step in the port, BUSY and OPC
only, and holds the operation's opcode. -/
theorem Begun.eq_with {op : BitVec 4} {fresh : Prop} (b : Begun s op fresh u) :
    u = { s with inWords := u.inWords, busy := true, opc := op } := by
  cases b with
  | accepted w ws idle word ok => rfl
  | waiting busy opc still => rw [← busy, ← opc]

section
variable {op : BitVec 4} {fresh : Prop}

theorem Begun.fb_eq (b : Begun s op fresh u) : u.fb = s.fb := by rw [b.eq_with]
theorem Begun.drv_eq (b : Begun s op fresh u) : u.drv = s.drv := by rw [b.eq_with]
theorem Begun.err_eq (b : Begun s op fresh u) : u.err = s.err := by rw [b.eq_with]
theorem Begun.errop_eq (b : Begun s op fresh u) : u.errop = s.errop := by rw [b.eq_with]
theorem Begun.errxfer_eq (b : Begun s op fresh u) : u.errxfer = s.errxfer := by rw [b.eq_with]
theorem Begun.pinoe_eq (b : Begun s op fresh u) : u.pinoe = s.pinoe := by rw [b.eq_with]
theorem Begun.rstn_eq (b : Begun s op fresh u) : u.rstn = s.rstn := by rw [b.eq_with]
theorem Begun.trace_eq (b : Begun s op fresh u) : u.trace = s.trace := by rw [b.eq_with]

end

/-- No answer to a transfer touches the framebuffer, PINOE or RSTN. -/
theorem afterTransfer_keeps (res : Result) (s : State) :
    (afterTransfer res s).fb = s.fb ∧ (afterTransfer res s).pinoe = s.pinoe ∧ (afterTransfer res s).rstn = s.rstn := by
  rcases afterTransfer_eq res s with ⟨_, e⟩ | ⟨_, _, e⟩ | ⟨_, _, _, e⟩ | ⟨_, _, _, _, e⟩ | ⟨_, _, _, _, e⟩ <;>
    rw [e] <;> exact ⟨rfl, rfl, rfl⟩

@[simp] theorem afterTransfer_fb (res : Result) (s : State) : (afterTransfer res s).fb = s.fb :=
  (afterTransfer_keeps res s).1

@[simp] theorem afterTransfer_pinoe (res : Result) (s : State) : (afterTransfer res s).pinoe = s.pinoe :=
  (afterTransfer_keeps res s).2.1

@[simp] theorem afterTransfer_rstn (res : Result) (s : State) : (afterTransfer res s).rstn = s.rstn :=
  (afterTransfer_keeps res s).2.2

/-- What an answered transfer does to DRV and the error registers: a failure halts; a success ends INIT in Displaying
or leaves all four as they are. -/
theorem afterTransfer_drv (res : Result) (s : State) :
    (afterTransfer res s).drv = .halted ∨
    ((afterTransfer res s).err = s.err ∧ (afterTransfer res s).errop = s.errop ∧
      (afterTransfer res s).errxfer = s.errxfer ∧
      ((afterTransfer res s).drv = s.drv ∨ (s.opc = Opcode.init ∧ (afterTransfer res s).drv = .displaying))) := by
  rcases afterTransfer_eq res s with ⟨_, e⟩ | ⟨_, ho, e⟩ | ⟨_, _, _, e⟩ | ⟨_, _, _, _, e⟩ | ⟨_, _, _, _, e⟩ <;>
    rw [e]
  · exact .inl rfl
  · exact .inr ⟨rfl, rfl, rfl, .inr ⟨ho, rfl⟩⟩
  · exact .inr ⟨rfl, rfl, rfl, .inl rfl⟩
  · exact .inr ⟨rfl, rfl, rfl, .inl rfl⟩
  · exact .inr ⟨rfl, rfl, rfl, .inl rfl⟩

/-! ## The block that is not Halted -/

/-- What the invariant says of a block that is not Halted, the sequencer and the trace apart. -/
structure State.Live (s : State) : Prop where
  memory : s.fb.wf = true
  notHalted : s.drv ≠ .halted
  noError : s.err = .none ∧ s.errop = 0#4 ∧ s.errxfer = 0#5
  undriven : s.drv = .uninitialized → s.pinoe = false
  driven : s.drv = .configured ∨ s.drv = .displaying → s.pinoe = true
  resetHigh : s.drv = .displaying → s.rstn = 1#1
  commands : ∀ b, (Mode.command, b) ∈ s.tx → b ∈ commandBytes

/-- The state elements that `State.Live` speaks of. -/
def State.face (s : State) :
    Framebuffer × Drv × (ErrorKind × BitVec 4 × BitVec 5) × Bool × Bit × List (Mode × Byte) :=
  (s.fb, s.drv, (s.err, s.errop, s.errxfer), s.pinoe, s.rstn, s.tx)

theorem State.Live.congr (l : s.Live) (h : t.face = s.face) : t.Live := by
  simp only [State.face, Prod.mk.injEq] at h
  obtain ⟨hfb, hdrv, ⟨herr, herrop, herrxfer⟩, hpinoe, hrstn, htx⟩ := h
  constructor
  · rw [hfb]; exact l.memory
  · rw [hdrv]; exact l.notHalted
  · rw [herr, herrop, herrxfer]; exact l.noError
  · rw [hdrv, hpinoe]; exact l.undriven
  · rw [hdrv, hpinoe]; exact l.driven
  · rw [hdrv, hrstn]; exact l.resetHigh
  · rw [htx]; exact l.commands

theorem State.Live.with_fb (l : s.Live) {m : Framebuffer} (hm : m.wf = true) : State.Live { s with fb := m } :=
  ⟨hm, l.notHalted, l.noError, l.undriven, l.driven, l.resetHigh, l.commands⟩

/-- The reset line is free to move in Configured. -/
theorem State.Live.of_driveReset (l : s.Live) (hd : s.drv = .configured) (level : Bit) (hold : BitVec 3) :
    (driveReset level hold s).Live where
  memory := l.memory
  notHalted := l.notHalted
  noError := l.noError
  undriven := l.undriven
  driven := l.driven
  resetHigh := by simp [hd]
  commands := l.commands

/-- CONFIG drives the lines. -/
theorem State.Live.configured (l : s.Live) : State.Live { s with pinoe := true, drv := .configured } :=
  ⟨l.memory, nofun, l.noError, nofun, fun _ => rfl, nofun, l.commands⟩

/-- INIT ends in Displaying with the reset line high. -/
theorem State.Live.displaying (l : s.Live) (hd : s.drv = .configured) (hr : s.rstn = 1#1) :
    State.Live { s with drv := .displaying } :=
  ⟨l.memory, nofun, l.noError, nofun, fun _ => l.driven (.inl hd), fun _ => hr, l.commands⟩

/-- A byte handed over with the selector line at Command must be a command byte. -/
theorem State.Live.of_handByte (l : s.Live) {b : Byte} (hb : s.dc = .command → b ∈ commandBytes) :
    (handByte b s).Live where
  memory := by simpa using l.memory
  notHalted := by simpa using l.notHalted
  noError := by simpa using l.noError
  undriven := by simpa using l.undriven
  driven := by simpa using l.driven
  resetHigh := by simpa using l.resetHigh
  commands := by
    intro c hc
    rw [handByte_tx, List.mem_append, List.mem_singleton, Prod.mk.injEq] at hc
    rcases hc with hc | ⟨hdc, rfl⟩
    · exact l.commands c hc
    · exact hb hdc.symm

theorem State.Inv.live (h : s.Inv) (hd : s.drv ≠ .halted) : s.Live :=
  ⟨h.memory, hd, h.noError hd, h.undriven, h.driven, h.resetHigh, h.commands⟩

/-- Where the trace stands between the operations that send, for each driver state (44_driver_ops.md R134). -/
def Drv.restPos : Drv → TracePos
  | .uninitialized => .start
  | .configured => .pins
  | .displaying => .between
  | .halted => .failed

theorem State.expectedPos_of_quiet (hi : s.opc ≠ Opcode.init) (hr : s.opc ≠ Opcode.render) :
    s.expectedPos = s.drv.restPos := by
  unfold State.expectedPos
  rw [if_neg hi, if_neg hr]
  cases s.drv <;> rfl

/-- The invariant of an idle block that is not Halted. -/
theorem State.Live.inv_idle (l : s.Live) (hb : s.busy = false) (ho : s.opc = 0#4) (hr : s.AtRest)
    (hpos : tracePos s.trace = some s.drv.restPos) : s.Inv where
  memory := l.memory
  rest := fun _ => ⟨ho, hr⟩
  running := by simp [hb]
  noError := fun _ => l.noError
  halted := fun hd => absurd hd l.notHalted
  undriven := l.undriven
  driven := l.driven
  resetHigh := l.resetHigh
  commands := l.commands
  order := fun _ => by rw [hpos, State.expectedPos_of_quiet (by rw [ho]; decide) (by rw [ho]; decide)]
  haltedOrder := fun hd => absurd hd l.notHalted

/-- The invariant of a block with an operation in flight. -/
theorem State.Live.inv_running (l : s.Live) (hb : s.busy = true) (hr : s.Running)
    (hpos : tracePos s.trace = some s.expectedPos) : s.Inv where
  memory := l.memory
  rest := by simp [hb]
  running := fun _ => hr
  noError := fun _ => l.noError
  halted := fun hd => absurd hd l.notHalted
  undriven := l.undriven
  driven := l.driven
  resetHigh := l.resetHigh
  commands := l.commands
  order := fun _ => hpos
  haltedOrder := fun hd => absurd hd l.notHalted

/-- Raising an error keeps the invariant when the trace is in order and the record is a row of R140. -/
theorem State.Live.inv_raise (l : s.Live) {e : ErrorKind} {index : BitVec 5} (hrec : (raise e index s).Recorded)
    (hpos : (tracePos s.trace).isSome) : (raise e index s).Inv where
  memory := l.memory
  rest := fun _ => ⟨rfl, rfl, rfl, rfl, rfl, rfl, rfl⟩
  running := nofun
  noError := fun hd => absurd rfl hd
  halted := fun _ => ⟨rfl, hrec⟩
  undriven := nofun
  driven := nofun
  resetHigh := nofun
  commands := l.commands
  order := fun hd => absurd rfl hd
  haltedOrder := fun _ => hpos

/-- The invariant does not speak of the inputs, the responses and the session number. -/
theorem State.Inv.with_ports (h : s.Inv) (rs : List Response) (n : Nat) (r : Bool) (ws : List HostWord)
    (qs : List Result) (xs : List XferAnswer) (ss : List Byte) :
    State.Inv { s with resps := rs, session := n, inReset := r, inWords := ws, inAcq := qs, inXfer := xs,
                       inSamples := ss } :=
  ⟨h.memory, h.rest, h.running, h.noError, h.halted, h.undriven, h.driven, h.resetHigh, h.commands, h.order,
    h.haltedOrder⟩

/-! ## After a hardware reset -/

/-- The state after every hardware reset meets the invariant. -/
theorem afterReset_inv (n : Nat) : (State.afterReset n).Inv := by
  have live : (State.afterReset n).Live :=
    ⟨Framebuffer.wf_atReset n, nofun, ⟨rfl, rfl, rfl⟩, fun _ => rfl, nofun, nofun, nofun⟩
  exact live.inv_idle rfl rfl ⟨rfl, rfl, rfl, rfl, rfl, rfl⟩ rfl

theorem hardwareReset_inv (s : State) : (hardwareReset s).Inv :=
  (afterReset_inv (s.session + 1)).with_ports [] _ false s.inWords s.inAcq s.inXfer s.inSamples

/-- Settles O58: the base case of the invariant. -/
theorem resetMeetsInvariant : Obligations.ResetMeetsInvariant := afterReset_inv 0

/-- Settles O48: the values of 10_state.md R25, read off the reset state; the framebuffer cell by cell. -/
theorem resetLeavesTheListedValues : Obligations.ResetLeavesTheListedValues := by
  refine ⟨rfl, rfl, rfl, rfl, rfl, rfl, ⟨rfl, rfl, rfl, rfl, rfl, rfl⟩, rfl, rfl, rfl, rfl, rfl, ?_, rfl⟩
  intro r hr c hc
  exact Framebuffer.read_atReset 0 _ (by omega)

/-! ## The legal positions -/

theorem State.expectedPos_of_cmd (ho : s.opc = Opcode.render) (hp : s.ph = .cmd) : s.expectedPos = .cmdSel s.p := by
  unfold State.expectedPos
  rw [if_neg (by rw [ho]; decide), if_pos ho, hp]

theorem State.expectedPos_of_data (ho : s.opc = Opcode.render) (hp : s.ph = .data) :
    s.expectedPos = .dataSel s.p := by
  unfold State.expectedPos
  rw [if_neg (by rw [ho]; decide), if_pos ho, hp]

/-- The position after one more event, from where the invariant has the trace. -/
theorem State.Inv.tracePos_append (h : s.Inv) (hd : s.drv ≠ .halted) (e : Event) :
    tracePos (s.trace ++ [e]) = traceStep s.expectedPos e := by
  rw [Machine.tracePos_append, h.order hd]
  rfl

/-- Outside INIT and RENDER the trace stands where the driver state has it. -/
theorem State.Inv.order_of_quiet (h : s.Inv) (hd : s.drv ≠ .halted) (hi : s.opc ≠ Opcode.init)
    (hr : s.opc ≠ Opcode.render) : tracePos s.trace = some s.drv.restPos := by
  rw [h.order hd, State.expectedPos_of_quiet hi hr]

theorem State.Inv.order_of_idle (h : s.Inv) (hd : s.drv ≠ .halted) (hb : s.busy = false) :
    tracePos s.trace = some s.drv.restPos := by
  obtain ⟨ho, -⟩ := h.rest hb
  exact h.order_of_quiet hd (by rw [ho]; decide) (by rw [ho]; decide)

theorem State.Running.of_ldgray (h : s.Running) (ho : s.opc = Opcode.ldgray) : s.AtRest := by
  rcases h with ⟨_, hr⟩ | ⟨ho', _⟩ | ⟨ho', _⟩ | ⟨ho', _⟩
  · exact hr
  all_goals exact absurd (ho.symm.trans ho') (by decide)

theorem State.Running.of_config (h : s.Running) (ho : s.opc = Opcode.config) :
    s.AtRest ∧ s.drv = .uninitialized := by
  rcases h with ⟨ho', _⟩ | ⟨_, h⟩ | ⟨ho', _⟩ | ⟨ho', _⟩
  · exact absurd (ho.symm.trans ho') (by decide)
  · exact h
  all_goals exact absurd (ho.symm.trans ho') (by decide)

/-- INIT in flight, stage by stage (44_driver_ops.md R130). -/
theorem State.Running.of_init (h : s.Running) (ho : s.opc = Opcode.init) :
    s.drv = .configured ∧ s.p = 0#3 ∧ s.ph = .cmd ∧ s.bi = 0#7 ∧
    (s.stg = 1#3 → s.rstn = 0#1) ∧ (s.stg = 3#3 → s.rstn = 1#1) ∧
    (s.stg = 4#3 → s.tmr = 0 ∧ s.rstn = 1#1 ∧ s.dc = .command) := by
  rcases h with ⟨ho', _⟩ | ⟨ho', _⟩ | ⟨_, hd, hp, hph, hbi, hstg⟩ | ⟨ho', _⟩
  · exact absurd (ho.symm.trans ho') (by decide)
  · exact absurd (ho.symm.trans ho') (by decide)
  · refine ⟨hd, hp, hph, hbi, ?_⟩
    rcases hstg with ⟨h1, _, _, hr⟩ | ⟨h2, _⟩ | ⟨h3, _, _, hr⟩ | ⟨h4, ht, _, hr, hdc⟩
    · simp [h1, hr]
    · simp [h2]
    · simp [h3, hr]
    · simp [h4, ht, hr, hdc]
  · exact absurd (ho.symm.trans ho') (by decide)

theorem State.Running.of_render (h : s.Running) (ho : s.opc = Opcode.render) :
    s.drv = .displaying ∧ s.stg = 0#3 ∧ s.tmr = 0 ∧ s.xfer ≠ .none ∧ s.dc = s.phaseMode ∧ s.bi ≤ s.lastIndex := by
  rcases h with ⟨ho', _⟩ | ⟨ho', _⟩ | ⟨ho', _⟩ | ⟨_, hd, hst, ht, hx, hdc, hbi, _⟩
  iterate 3 exact absurd (ho.symm.trans ho') (by decide)
  exact ⟨hd, hst, ht, hx, hdc, hbi⟩

/-- A transfer is in flight in RENDER and in the last stage of INIT. -/
theorem State.inTransfer_iff :
    s.inTransfer = true ↔ s.busy = true ∧ (s.opc = Opcode.render ∨ (s.opc = Opcode.init ∧ s.stg = 4#3)) := by
  simp [State.inTransfer]

/-! ## Operations that do not send -/

section
variable {op : BitVec 4} {fresh : Prop}

theorem Begun.busy_eq (b : Begun s op fresh u) : u.busy = true := by rw [b.eq_with]
theorem Begun.opc_eq (b : Begun s op fresh u) : u.opc = op := by rw [b.eq_with]

/-- LDGRAY and CONFIG wait with the sequencer at rest. -/
theorem Begun.atRest (b : Begun s op fresh u) (h : s.Inv) (hop : op = Opcode.ldgray ∨ op = Opcode.config) :
    u.AtRest := by
  cases b with
  | accepted w ws idle word ok => exact (h.rest idle).2
  | waiting busy opc still =>
    rcases hop with rfl | rfl
    · exact (h.running busy).of_ldgray opc
    · exact ((h.running busy).of_config opc).1

/-- LDGRAY and CONFIG wait with the trace where the driver state has it. -/
theorem Begun.order (b : Begun s op fresh u) (h : s.Inv) (hd : s.drv ≠ .halted)
    (hop : op = Opcode.ldgray ∨ op = Opcode.config) : tracePos u.trace = some u.drv.restPos := by
  rw [b.trace_eq, b.drv_eq]
  cases b with
  | accepted w ws idle word ok => exact h.order_of_idle hd idle
  | waiting busy opc still =>
    refine h.order_of_quiet hd ?_ ?_ <;> rcases hop with rfl | rfl <;> rw [opc] <;> decide

theorem Begun.live (b : Begun s op fresh u) (h : s.Inv) (hd : s.drv ≠ .halted) : u.Live :=
  (h.live hd).congr (by rw [b.eq_with]; rfl)

/-- CONFIG is in flight in Uninitialized only. -/
theorem Begun.uninitialized (b : Begun s Opcode.config (s.drv = .uninitialized) u) (h : s.Inv) :
    s.drv = .uninitialized := by
  cases b with
  | accepted w ws idle word ok => exact ok
  | waiting busy opc still => exact ((h.running busy).of_config opc).2

theorem Begun.inv_ldgray (b : Begun s Opcode.ldgray fresh u) (h : s.Inv) (hd : s.drv ≠ .halted) : u.Inv := by
  refine (b.live h hd).inv_running b.busy_eq (.inl ⟨b.opc_eq, b.atRest h (.inl rfl)⟩) ?_
  rw [b.order h hd (.inl rfl), State.expectedPos_of_quiet] <;> rw [b.opc_eq] <;> decide

theorem Begun.inv_config (b : Begun s Opcode.config (s.drv = .uninitialized) u) (h : s.Inv)
    (hd : s.drv ≠ .halted) : u.Inv := by
  have hu : u.drv = .uninitialized := b.drv_eq.trans (b.uninitialized h)
  refine (b.live h hd).inv_running b.busy_eq (.inr (.inl ⟨b.opc_eq, b.atRest h (.inr rfl), hu⟩)) ?_
  rw [b.order h hd (.inr rfl), State.expectedPos_of_quiet] <;> rw [b.opc_eq] <;> decide

end

/-- LDGRAY ends with the framebuffer of its samples. -/
theorem Begun.inv_samplesTaken {fresh : Prop} (b : Begun s Opcode.ldgray fresh u) (h : s.Inv)
    (hd : s.drv ≠ .halted) :
    (respond .ok 0#1
      { u with fb := grayFrame (u.inSamples.take 8192), inSamples := u.inSamples.drop 8192 }).Inv := by
  have hw := Framebuffer.wf_grayFrame (u.inSamples.take 8192) (List.length_take_le _ _)
  exact (((b.live h hd).with_fb hw).congr (by rfl)).inv_idle rfl rfl (b.atRest h (.inl rfl)) (b.order h hd (.inl rfl))

/-- CONFIG with an Ok ends in Configured. -/
theorem Begun.inv_acqOk (b : Begun s Opcode.config (s.drv = .uninitialized) u) (h : s.Inv)
    (hd : s.drv ≠ .halted) (rest : List Result) :
    (respond .ok 0#1 (emit .pinsOut { u with pinoe := true, drv := .configured, inAcq := rest })).Inv := by
  refine ((b.live h hd).configured.congr (by rfl)).inv_idle rfl rfl (b.atRest h (.inr rfl)) ?_
  have hu : tracePos u.trace = some .start := by
    rw [b.order h hd (.inr rfl), b.drv_eq, b.uninitialized h]; rfl
  rw [respond_trace, emit_trace, Machine.tracePos_append, hu]
  rfl

/-- CONFIG with a Fail halts. -/
theorem Begun.inv_acqFail (b : Begun s Opcode.config (s.drv = .uninitialized) u) (h : s.Inv)
    (hd : s.drv ≠ .halted) (rest : List Result) :
    (raise .acquisitionFailure 0#5 { u with inAcq := rest }).Inv := by
  refine State.Live.inv_raise ((b.live h hd).congr (by rfl)) (.inl ⟨rfl, b.opc_eq, rfl⟩) ?_
  rw [b.order h hd (.inr rfl)]
  rfl

/-! ## INIT before its transfer -/

/-- Where the trace stands in each stage of INIT. -/
def initPos (stg : BitVec 3) : TracePos :=
  if stg = 1#3 then .resetLow
  else if stg = 2#3 then .lowHeld
  else if stg = 3#3 then .resetHigh
  else .disponSel

theorem State.expectedPos_of_init (ho : s.opc = Opcode.init) : s.expectedPos = initPos s.stg := by
  unfold State.expectedPos
  rw [if_pos ho]
  rfl

theorem initStart_inv (h : s.Inv) (ws : List HostWord) (idle : s.busy = false) (hc : s.drv = .configured) :
    (driveReset 0#1 1#3 { s with inWords := ws, busy := true, opc := Opcode.init }).Inv := by
  have hd : s.drv ≠ .halted := by rw [hc]; decide
  obtain ⟨-, -, hp, hph, hbi, -, hx⟩ := h.rest idle
  have live := State.Live.of_driveReset (s := { s with inWords := ws, busy := true, opc := Opcode.init })
    ((h.live hd).congr (by rfl)) hc 0#1 1#3
  refine live.inv_running rfl (.inr (.inr (.inl ⟨rfl, hc, hp, hph, hbi, .inl ⟨rfl, rfl, hx, rfl⟩⟩))) ?_
  rw [driveReset_trace, Machine.tracePos_append, h.order_of_idle hd idle, hc]
  rfl

theorem initLowHeld_inv (h : s.Inv) (hb : s.busy = true) (ho : s.opc = Opcode.init) (hx : s.xfer = .none)
    (hs : s.stg = 1#3) : (endHold 2#3 s).Inv := by
  obtain ⟨hc, hp, hph, hbi, hlow, -, -⟩ := (h.running hb).of_init ho
  have hd : s.drv ≠ .halted := by rw [hc]; decide
  refine State.Live.inv_running ((h.live hd).congr (by rfl)) hb
    (.inr (.inr (.inl ⟨ho, hc, hp, hph, hbi, .inr (.inl ⟨rfl, rfl, hx, hlow hs⟩)⟩))) ?_
  rw [endHold_trace, h.tracePos_append hd, State.expectedPos_of_init ho, hs,
    State.expectedPos_of_init (s := endHold 2#3 s) ho]
  rfl

theorem initRise_inv (h : s.Inv) (hb : s.busy = true) (ho : s.opc = Opcode.init) (hx : s.xfer = .none)
    (hs : s.stg = 2#3) : (driveReset 1#1 3#3 s).Inv := by
  obtain ⟨hc, hp, hph, hbi, -, -, -⟩ := (h.running hb).of_init ho
  have hd : s.drv ≠ .halted := by rw [hc]; decide
  refine ((h.live hd).of_driveReset hc 1#1 3#3).inv_running hb
    (.inr (.inr (.inl ⟨ho, hc, hp, hph, hbi, .inr (.inr (.inl ⟨rfl, rfl, hx, rfl⟩))⟩))) ?_
  rw [driveReset_trace, h.tracePos_append hd, State.expectedPos_of_init ho, hs,
    State.expectedPos_of_init (s := driveReset 1#1 3#3 s) ho]
  rfl

theorem initHighHeld_inv (h : s.Inv) (hb : s.busy = true) (ho : s.opc = Opcode.init) (hs : s.stg = 3#3) :
    (beginSend .command (endHold 4#3 s)).Inv := by
  obtain ⟨hc, hp, hph, -, -, hhigh, -⟩ := (h.running hb).of_init ho
  have hd : s.drv ≠ .halted := by rw [hc]; decide
  refine State.Live.inv_running ((h.live hd).congr (by rfl)) hb
    (.inr (.inr (.inl ⟨ho, hc, hp, hph, rfl, .inr (.inr (.inr ⟨rfl, rfl, nofun, hhigh hs, rfl⟩))⟩))) ?_
  rw [beginSend_trace, endHold_trace, Machine.tracePos_append, h.tracePos_append hd, State.expectedPos_of_init ho, hs,
    State.expectedPos_of_init (s := beginSend .command (endHold 4#3 s)) ho]
  rfl

/-! ## Transfers -/

/-- A SEND of RENDER begins at a legal position. -/
theorem beginSend_running {m : Mode} (ho : s.opc = Opcode.render) (hd : s.drv = .displaying) (hs : s.stg = 0#3)
    (ht : s.tmr = 0) (hm : m = s.phaseMode) : (beginSend m s).Running :=
  .inr (.inr (.inr ⟨ho, hd, hs, ht, nofun, hm, BitVec.le_def.2 (Nat.zero_le _), nofun⟩))

theorem renderStart_inv (h : s.Inv) (ws : List HostWord) (idle : s.busy = false) (hc : s.drv = .displaying) :
    (beginSend .command
      { s with inWords := ws, busy := true, opc := Opcode.render, p := 0#3, ph := .cmd }).Inv := by
  have hd : s.drv ≠ .halted := by rw [hc]; decide
  obtain ⟨-, hs, -, -, -, ht, -⟩ := h.rest idle
  refine State.Live.inv_running ((h.live hd).congr (by rfl)) rfl (beginSend_running rfl hc hs ht rfl) ?_
  rw [beginSend_trace, Machine.tracePos_append, h.order_of_idle hd idle, hc]
  rfl

/-- Every byte CS offers is a command byte (20_memory.md R46). -/
theorem csByte_mem_commandBytes (s : State) : csByte s ∈ commandBytes := by
  have hpage : ∀ d : BitVec 3, Config.opSetpage + d.setWidth 8 ∈ commandBytes := by decide
  rcases decodeWire_csByte s with ⟨_, _, e⟩ | ⟨_, _, _, e⟩ | ⟨_, _, _, e⟩ | ⟨_, _, _, _, e⟩ <;> rw [e]
  · decide
  · exact hpage _
  · decide
  · decide

@[simp] theorem handByte_expectedPos (b : Byte) (s : State) : (handByte b s).expectedPos = s.expectedPos := by
  simp [State.expectedPos]

@[simp] theorem handByte_lastIndex (b : Byte) (s : State) : (handByte b s).lastIndex = s.lastIndex := by
  simp [State.lastIndex]

@[simp] theorem handByte_phaseMode (b : Byte) (s : State) : (handByte b s).phaseMode = s.phaseMode := by
  simp [State.phaseMode]

/-- Handing over a byte of the DISPON transfer: it is the only one. -/
theorem handByte_running_dispon (b : Byte) (h : s.Running) (ho : s.opc = Opcode.init) (hs : s.stg = 4#3) :
    (handByte b s).Running := by
  obtain ⟨hc, hp, hph, hbi, -, -, hlast⟩ := h.of_init ho
  obtain ⟨ht, hr, hdc⟩ := hlast hs
  have hi : s.lastIndex = 0#7 := by simp [State.lastIndex, ho]
  refine .inr (.inr (.inl ?_))
  simp [ho, hc, hp, hph, hbi, hi, hs, ht, hr, hdc]

/-- Handing over a byte of a RENDER transfer: the byte index stays within the transfer. -/
theorem handByte_running_render (b : Byte) (h : s.Running) (ho : s.opc = Opcode.render) (hx : s.xfer = .offering) :
    (handByte b s).Running := by
  obtain ⟨hd, hs, ht, -, hdc, hbi⟩ := h.of_render ho
  refine .inr (.inr (.inr ?_))
  by_cases hlast : s.bi = s.lastIndex
  · simp [ho, hd, hs, ht, hdc, hlast]
  · have hnext : s.bi + 1#7 ≤ s.lastIndex := by bv_omega
    simp [ho, hd, hs, ht, hdc, hlast, hx, hnext]

theorem handByte_inv {b : Byte} (h : s.Inv) (hd : s.drv ≠ .halted) (hs : s.inTransfer = true)
    (hx : s.xfer = .offering) (hb : s.dc = .command → b ∈ commandBytes) : (handByte b s).Inv := by
  obtain ⟨busy, hop⟩ := State.inTransfer_iff.1 hs
  refine ((h.live hd).of_handByte hb).inv_running (by simpa using busy) ?_ (by simpa using h.order hd)
  rcases hop with ho | ⟨ho, h4⟩
  · exact handByte_running_render b (h.running busy) ho hx
  · exact handByte_running_dispon b (h.running busy) ho h4

theorem commandByte_inv (h : s.Inv) (hd : s.drv ≠ .halted) (hs : s.sendingCommand = true) :
    (handByte (csByte s) s).Inv := by
  simp only [State.sendingCommand, Bool.and_eq_true, beq_iff_eq] at hs
  obtain ⟨⟨hs, hx⟩, -⟩ := hs
  exact handByte_inv h hd hs hx fun _ => csByte_mem_commandBytes s

/-- A data byte leaves with the selector line at Data. -/
theorem dataByte_inv (h : s.Inv) (hd : s.drv ≠ .halted) (hs : s.sendingData = true) :
    (handByte (peByte s) s).Inv := by
  simp only [State.sendingData, Bool.and_eq_true, beq_iff_eq] at hs
  obtain ⟨⟨⟨hb, ho⟩, hx⟩, hph⟩ := hs
  obtain ⟨-, -, -, -, hdc, -⟩ := (h.running hb).of_render ho
  refine handByte_inv h hd (State.inTransfer_iff.2 ⟨hb, .inl ho⟩) hx fun hc => ?_
  rw [hdc, State.phaseMode, hph] at hc
  cases hc

/-! ## The answer to a transfer -/

/-- The trace after the DISPON transfer. -/
theorem endSend_order_dispon (h : s.Inv) (hb : s.busy = true) (ho : s.opc = Opcode.init) (hs : s.stg = 4#3)
    (res : Result) : tracePos (endSend res s).trace = some (TracePos.between.after res) := by
  obtain ⟨hc, -, hph, -, -, -, -⟩ := (h.running hb).of_init ho
  rw [endSend_trace, h.tracePos_append (by rw [hc]; decide), State.expectedPos_of_init ho, hs, State.phaseMode, hph,
    sendBytes, if_pos ho]
  rfl

/-- The trace after the command transfer of a page. -/
theorem endSend_order_cmd (h : s.Inv) (hb : s.busy = true) (ho : s.opc = Opcode.render) (hph : s.ph = .cmd)
    (res : Result) : tracePos (endSend res s).trace = some ((TracePos.cmdSent s.p).after res) := by
  obtain ⟨hd, -⟩ := (h.running hb).of_render ho
  rw [endSend_trace, h.tracePos_append (by rw [hd]; decide), State.expectedPos_of_cmd ho hph, State.phaseMode, hph,
    sendBytes, if_neg (by rw [ho]; decide), hph]
  exact if_pos rfl

theorem pageData_length (fb : Framebuffer) (p : Nat) : (pageData fb p).length = 128 := by simp [pageData]

/-- A data transfer may follow its page's command transfer when it has 128 bytes. -/
theorem traceStep_dataSel (p : BitVec 3) {bytes : List Byte} (res : Result) (h : bytes.length = 128) :
    traceStep (.dataSel p) (.xfer .data bytes res) =
      some ((if p = 7#3 then TracePos.between else .pageSent p).after res) :=
  if_pos h

/-- The trace after the data transfer of a page. -/
theorem endSend_order_data (h : s.Inv) (hb : s.busy = true) (ho : s.opc = Opcode.render) (hph : s.ph = .data)
    (res : Result) :
    tracePos (endSend res s).trace =
      some ((if s.p = 7#3 then TracePos.between else .pageSent s.p).after res) := by
  obtain ⟨hd, -⟩ := (h.running hb).of_render ho
  rw [endSend_trace, h.tracePos_append (by rw [hd]; decide), State.expectedPos_of_data ho hph, State.phaseMode, hph,
    sendBytes, if_neg (by rw [ho]; decide), hph]
  exact traceStep_dataSel s.p res (pageData_length s.fb s.p.toNat)

/-- A failed transfer ends the trace. -/
theorem endSend_order_fail (h : s.Inv) (hs : s.inTransfer = true) :
    tracePos (endSend .fail s).trace = some .failed := by
  obtain ⟨hb, ho | ⟨ho, h4⟩⟩ := State.inTransfer_iff.1 hs
  · cases hph : s.ph
    · exact endSend_order_cmd h hb ho hph .fail
    · exact endSend_order_data h hb ho hph .fail
  · exact endSend_order_dispon h hb ho h4 .fail

theorem State.xferIndex_le (s : State) : s.xferIndex ≤ 15#5 := by
  have := s.p.isLt
  unfold State.xferIndex
  split
  · decide
  · split <;> rw [BitVec.le_def, BitVec.toNat_ofNat, BitVec.toNat_ofNat] <;> omega

/-- A failed transfer is recorded as a row of R140. -/
theorem transferFailed_recorded (hs : s.inTransfer = true) :
    (raise .transferFailure s.xferIndex s).Recorded := by
  obtain ⟨-, ho | ⟨ho, -⟩⟩ := State.inTransfer_iff.1 hs
  · exact .inr (.inr (.inl ⟨rfl, ho, s.xferIndex_le⟩))
  · exact .inr (.inl ⟨rfl, ho, by simp [State.xferIndex, ho]⟩)

/-- After the DISPON transfer the block is Displaying. -/
theorem disponSent_inv (h : s.Inv) (hb : s.busy = true) (ho : s.opc = Opcode.init) (h4 : s.stg = 4#3) :
    (respond .ok 0#1 { endSend .ok s with stg := 0#3, drv := .displaying }).Inv := by
  obtain ⟨hc, hp, hph, -, -, -, hlast⟩ := (h.running hb).of_init ho
  obtain ⟨ht, hr, -⟩ := hlast h4
  exact (((h.live (by rw [hc]; decide)).displaying hc hr).congr (by rfl)).inv_idle rfl rfl
    ⟨rfl, hp, hph, rfl, ht, rfl⟩ (endSend_order_dispon h hb ho h4 .ok)

/-- After a page's command transfer comes its data transfer. -/
theorem commandSent_inv (h : s.Inv) (hb : s.busy = true) (ho : s.opc = Opcode.render) (hph : s.ph = .cmd) :
    (beginSend .data { endSend .ok s with ph := .data }).Inv := by
  obtain ⟨hc, hst, ht, -⟩ := (h.running hb).of_render ho
  have hpos : (beginSend .data { endSend .ok s with ph := .data }).expectedPos = .dataSel s.p :=
    State.expectedPos_of_data ho rfl
  refine State.Live.inv_running ((h.live (by rw [hc]; decide)).congr (by rfl)) hb
    (beginSend_running ho hc hst ht rfl) ?_
  rw [hpos, beginSend_trace, Machine.tracePos_append, endSend_order_cmd h hb ho hph]
  rfl

/-- After the data transfer of a page, not the last, comes the next page. -/
theorem pageSent_inv (h : s.Inv) (hb : s.busy = true) (ho : s.opc = Opcode.render) (hph : s.ph = .data)
    (h7 : s.p ≠ 7#3) : (beginSend .command { endSend .ok s with p := s.p + 1#3, ph := .cmd }).Inv := by
  obtain ⟨hc, hst, ht, -⟩ := (h.running hb).of_render ho
  have hpos : (beginSend .command { endSend .ok s with p := s.p + 1#3, ph := .cmd }).expectedPos =
      .cmdSel (s.p + 1#3) := State.expectedPos_of_cmd ho rfl
  refine State.Live.inv_running ((h.live (by rw [hc]; decide)).congr (by rfl)) hb
    (beginSend_running ho hc hst ht rfl) ?_
  rw [hpos, beginSend_trace, Machine.tracePos_append, endSend_order_data h hb ho hph, if_neg h7]
  rfl

/-- After the last page the frame is over. -/
theorem frameSent_inv (h : s.Inv) (hb : s.busy = true) (ho : s.opc = Opcode.render) (hph : s.ph = .data)
    (h7 : s.p = 7#3) : (respond .ok 0#1 { endSend .ok s with p := 0#3, ph := .cmd }).Inv := by
  obtain ⟨hc, hst, ht, -⟩ := (h.running hb).of_render ho
  refine State.Live.inv_idle ((h.live (by rw [hc]; decide)).congr (by rfl)) rfl rfl ⟨hst, rfl, rfl, rfl, ht, rfl⟩ ?_
  have hrest : (respond .ok 0#1 { endSend .ok s with p := 0#3, ph := .cmd }).drv.restPos = .between :=
    congrArg Drv.restPos hc
  rw [hrest, respond_trace, endSend_order_data h hb ho hph, if_pos h7]
  rfl

/-- The end of a transfer, failed or not. -/
theorem answered_inv (h : s.Inv) (hd : s.drv ≠ .halted) (hs : s.inTransfer = true) (res : Result) :
    (afterTransfer res (endSend res s)).Inv := by
  obtain ⟨hb, hop⟩ := State.inTransfer_iff.1 hs
  have render (hi : s.opc ≠ Opcode.init) : s.opc = Opcode.render := hop.resolve_right fun hi' => hi hi'.1
  rcases afterTransfer_eq res (endSend res s) with
    ⟨rfl, e⟩ | ⟨rfl, ho, e⟩ | ⟨rfl, hi, hph, e⟩ | ⟨rfl, hi, hph, h7, e⟩ | ⟨rfl, hi, hph, h7, e⟩ <;> rw [e]
  · refine State.Live.inv_raise ((h.live hd).congr (by rfl)) (transferFailed_recorded (s := endSend .fail s) hs) ?_
    rw [endSend_order_fail h hs]
    rfl
  · have hr : s.opc ≠ Opcode.render := fun hr => absurd (hr.symm.trans ho) (by decide)
    exact disponSent_inv h hb ho (hop.resolve_left hr).2
  · exact commandSent_inv h hb (render hi) hph
  · exact frameSent_inv h hb (render hi) hph h7
  · exact pageSent_inv h hb (render hi) hph h7

/-- Settles O59: one lemma per way a step can go. -/
theorem stepKeepsInvariant : Obligations.StepKeepsInvariant := by
  intro s t h hstep
  obtain ⟨hcase, halive⟩ := step_cases hstep
  cases hr : s.inReset with
  | true =>
    rw [step_reset hr] at hstep
    cases hstep
    exact hardwareReset_inv s
  | false =>
  have hd := halive hr
  cases hcase with
  | reset => exact hardwareReset_inv s
  | held => exact h
  | rejectedEncoding => exact h.with_ports ..
  | rejectedState => exact h.with_ports ..
  | fbset w ws row col val idle word dec =>
    have hw := Framebuffer.wf_write h.memory val (Framebuffer.cellAddr_lt row col)
    exact (((h.live hd).with_fb hw).congr (by rfl)).inv_idle rfl rfl (h.rest idle).2 (h.order_of_idle hd idle)
  | fbget w ws bit idle word =>
    exact State.Live.inv_idle ((h.live hd).congr (by rfl)) rfl rfl (h.rest idle).2 (h.order_of_idle hd idle)
  | fbclr w ws idle word dec =>
    exact (((h.live hd).with_fb Framebuffer.wf_nil).congr (by rfl)).inv_idle rfl rfl (h.rest idle).2
      (h.order_of_idle hd idle)
  | wrongDimensions w ws idle word =>
    refine State.Live.inv_raise ((h.live hd).congr (by rfl)) (.inr (.inr (.inr ⟨rfl, rfl, rfl⟩))) ?_
    rw [h.order_of_idle hd idle]
    rfl
  | samplesMissing _ b => exact b.inv_ldgray h hd
  | samplesTaken u b enough => exact b.inv_samplesTaken h hd
  | acqMissing _ b => exact b.inv_config h hd
  | acqOk u rest b => exact b.inv_acqOk h hd rest
  | acqFail u rest b => exact b.inv_acqFail h hd rest
  | initStart w ws idle word hc => exact initStart_inv h ws idle hc
  | initLowHeld hb ho hx hs => exact initLowHeld_inv h hb ho hx hs
  | initRise hb ho hx hs => exact initRise_inv h hb ho hx hs
  | initHighHeld hb ho hx hs => exact initHighHeld_inv h hb ho hs
  | renderStart w ws idle word hc => exact renderStart_inv h ws idle hc
  | commandByte due => exact commandByte_inv h hd due
  | dataByte due => exact dataByte_inv h hd due
  | answered a rest sending ans when' => exact answered_inv h hd sending a.result

/-! ## Who writes which register -/

/-- Settles O21: of the cases of a step only the writes of FBSET, FBCLR and LDGRAY touch the framebuffer. -/
theorem onlyThreeOperationsWriteTheFramebuffer : Obligations.OnlyThreeOperationsWriteTheFramebuffer := by
  intro s t hr hstep hne
  cases (step_cases hstep).1 with
  | reset asserted => rw [hr] at asserted; cases asserted
  | fbset w ws row col val idle word dec => exact .inr ⟨idle, w, ws, _, word, dec, .inl ⟨row, col, val, rfl⟩⟩
  | fbclr w ws idle word dec => exact .inr ⟨idle, w, ws, _, word, dec, .inr (.inl rfl)⟩
  | samplesTaken u b enough =>
    cases b with
    | accepted w ws idle word ok =>
      obtain ⟨w, ws, word, dec⟩ := ok
      exact .inr ⟨idle, w, ws, _, word, dec, .inr (.inr rfl)⟩
    | waiting busy opc still => exact .inl ⟨busy, opc⟩
  | samplesMissing _ b | acqMissing _ b | acqOk _ _ b | acqFail _ _ b => exact absurd b.fb_eq hne
  | _ => exact absurd (by simp) hne

/-- Settles O51: DRV changes with the answers to CONFIG and INIT and on raising an error. -/
theorem driverStateMovesAlongTheGraph : Obligations.DriverStateMovesAlongTheGraph := by
  intro s t h hr hstep hne
  obtain ⟨hcase, halive⟩ := step_cases hstep
  have hd := halive hr
  cases hcase with
  | reset asserted => rw [hr] at asserted; cases asserted
  | acqOk u rest b => exact .inl ⟨b.uninitialized h, rfl⟩
  | acqFail | wrongDimensions => exact .inr (.inr ⟨hd, rfl⟩)
  | answered a rest sending ans when' =>
    rcases afterTransfer_drv a.result (endSend a.result s) with hh | ⟨-, -, -, hkept | ⟨ho, hdisp⟩⟩
    · exact .inr (.inr ⟨hd, hh⟩)
    · exact absurd hkept hne
    · have hb := (State.inTransfer_iff.1 sending).1
      exact .inr (.inl ⟨((h.running hb).of_init ho).1, hdisp⟩)
  | samplesMissing _ b | samplesTaken _ b | acqMissing _ b => exact absurd b.drv_eq hne
  | _ => exact absurd (by simp) hne

/-- Settles O52: the error registers change on raising an error only. -/
theorem errorsAreWrittenOnlyOnHalting : Obligations.ErrorsAreWrittenOnlyOnHalting := by
  intro s t hr hstep hne
  obtain ⟨hcase, halive⟩ := step_cases hstep
  refine ⟨halive hr, ?_⟩
  by_contra hrun
  have kept : t.err = s.err ∧ t.errop = s.errop ∧ t.errxfer = s.errxfer := by
    cases hcase with
    | reset asserted => rw [hr] at asserted; cases asserted
    | acqFail | wrongDimensions => exact absurd rfl hrun
    | answered a rest sending ans when' =>
      rcases afterTransfer_drv a.result (endSend a.result s) with hh | ⟨he, hop, hx, -⟩
      · exact absurd hh hrun
      · exact ⟨he, hop, hx⟩
    | samplesMissing _ b | samplesTaken _ b | acqMissing _ b | acqOk _ _ b =>
      exact ⟨b.err_eq, b.errop_eq, b.errxfer_eq⟩
    | _ => simp
  simp [kept] at hne

/-- Settles O54: of the cases of a step only CONFIG's Ok writes PINOE. -/
theorem linesStayDriven : Obligations.LinesStayDriven := by
  intro s t hr hstep
  have key : t.pinoe = s.pinoe ∨
      (t.pinoe = true ∧ t.drv = .configured ∧ t.trace = s.trace ++ [.pinsOut]) := by
    cases (step_cases hstep).1 with
    | reset asserted => rw [hr] at asserted; cases asserted
    | acqOk u rest b => exact .inr ⟨rfl, rfl, by simp [b.trace_eq]⟩
    | samplesMissing _ b | samplesTaken _ b | acqMissing _ b | acqFail _ _ b => exact .inl b.pinoe_eq
    | _ => exact .inl (by simp)
  rcases key with kept | ⟨hout, hdrv, htrace⟩
  · exact ⟨kept.trans, fun hoff hon => absurd (kept.symm.trans hon) (by simp [hoff])⟩
  · exact ⟨fun _ => hout, fun _ _ => ⟨hdrv, htrace⟩⟩

/-- Settles O56: of the cases of a step only INIT's two edges of the reset line write RSTN. -/
theorem resetLineMovesOnlyInInit : Obligations.ResetLineMovesOnlyInInit := by
  intro s t hr hstep hne
  cases (step_cases hstep).1 with
  | reset asserted => rw [hr] at asserted; cases asserted
  | initStart => exact ⟨rfl, rfl, rfl, rfl⟩
  | initRise busy opc => exact ⟨opc, busy, rfl, rfl⟩
  | samplesMissing _ b | samplesTaken _ b | acqMissing _ b | acqOk _ _ b | acqFail _ _ b =>
    exact absurd b.rstn_eq hne
  | _ => exact absurd (by simp) hne

end Sys2Proof.Machine
end

section
/-!
PROOFS. The memory map (20_memory.md): what the page encoder and the frame stream hold at each place, and where each
pixel lands in the frame.
-/

namespace Sys2Proof.Machine

/-! ## The page encoder, place by place -/

theorem field_append_bit_zero {n : Nat} (v : BitVec n) (x : Bit) : field (v ++ x) 0 1 = x :=
  BitVec.extractLsb'_append_eq_right

theorem field_append_bit_succ {n : Nat} (v : BitVec n) (x : Bit) (b : Nat) :
    field (v ++ x) (b + 1) 1 = field v b 1 := by
  rw [field, BitVec.extractLsb'_append_eq_of_le (by omega), Nat.add_sub_cancel]

/-- Bit `b` of a packed byte is pixel number `7 - b`, the top pixel being number 0 (41_page_encoder.md R90). -/
theorem field_pack8 (px : Nat → Bit) {b : Nat} (hb : b < 8) :
    field (pack8 (px 0) (px 1) (px 2) (px 3) (px 4) (px 5) (px 6) (px 7)) b 1 = px (7 - b) := by
  unfold pack8
  interval_cases b <;> simp [field_append_bit_succ, field_append_bit_zero]

theorem field_pageByte (fb : Framebuffer) (p i : Nat) {b : Nat} (hb : b < 8) :
    field (pageByte fb p i) b 1 = fb.pixel (8 * p + (7 - b)) (127 - i) :=
  field_pack8 (fun q => fb.pixel (8 * p + q) (127 - i)) hb

theorem getElem?_pageData (fb : Framebuffer) (p : Nat) {i : Nat} (hi : i < 128) :
    (pageData fb p)[i]? = some (pageByte fb p i) := by
  simp [pageData, hi]

/-- The three command bytes come before the data bytes of each page (43_serial_mux.md R116). -/
theorem frameMode_data (p : Nat) {i : Nat} (hi : i < 128) : frameMode (131 * p + 3 + i) = .data :=
  if_neg (by omega)

theorem frameByte_data (fb : Framebuffer) (p : Nat) {i : Nat} (hi : i < 128) :
    frameByte fb (131 * p + 3 + i) = pageByte fb p i := by
  have hpage : (131 * p + 3 + i) / 131 = p := by omega
  have hindex : (131 * p + 3 + i) % 131 = 3 + i := by omega
  simp [frameByte, hpage, hindex]

theorem transferEvents_data (fb : Framebuffer) (p : Nat) (res : Result) :
    transferEvents fb (2 * p + 1) res = sendEvents .data (pageData fb p) res := by
  have hodd : (2 * p + 1) % 2 ≠ 0 := by omega
  have hpage : (2 * p + 1) / 2 = p := by omega
  rw [transferEvents, if_neg hodd, hpage]

/-! ## The mapping -/

/-- Cell `(r, c)` is bit `7 - r mod 8` of data byte `127 - c` of page `r div 8`. -/
theorem field_pageByte_of_cell (fb : Framebuffer) (r : Nat) {c : Nat} (hc : c < 128) :
    field (pageByte fb (r / 8) (127 - c)) (7 - r % 8) 1 = fb.pixel r c := by
  have hrow : 8 * (r / 8) + (7 - (7 - r % 8)) = r := by omega
  have hcol : 127 - (127 - c) = c := by omega
  rw [field_pageByte fb _ _ (by omega), hrow, hcol]

/-- Settles O25: the encoder's bytes read at the place of the cell, and the arithmetic of that place. -/
theorem pixelToWireMapping : Obligations.PixelToWireMapping := by
  refine ⟨fun fb r hr c hc => ?forward, fun fb p _ i _ b hb => field_pageByte fb p i hb, ?injective, ?surjective⟩
  case forward =>
    have hi : 127 - c < 128 := by omega
    have hbyte := frameByte_data fb (r / 8) hi
    refine ⟨frameMode_data _ hi, ?_, by omega, ?_, transferEvents_data fb _ .ok, rfl⟩
    · exact hbyte ▸ field_pageByte_of_cell fb r hc
    · exact hbyte ▸ getElem?_pageData fb _ hi
  case injective =>
    intro r _ c hc r' _ c' hc' hplace
    obtain ⟨hpage, hindex, hbit⟩ : r / 8 = r' / 8 ∧ 127 - c = 127 - c' ∧ 7 - r % 8 = 7 - r' % 8 := by
      simpa only [Prod.mk.injEq] using hplace
    constructor <;> omega
  case surjective =>
    intro p hp i hi b hb
    exact ⟨8 * p + (7 - b), by omega, 127 - i, by omega, by omega, by omega, by omega⟩

end Sys2Proof.Machine
end

section
/-!
PROOFS. Encodings (30_encoding.md): decoding and encoding are inverse, and the legal words are those of the match and
mask lists.
-/

namespace Sys2Proof

/-! ## Fields of the words that fit a row -/

/-- A word agrees with a row it fits on every field under the row's mask. -/
theorem Row.field_of_fits {n : Nat} {r : Row n} {w : BitVec n} (h : r.fits w = true) (lo len : Nat)
    (hm : field r.mask lo len = BitVec.allOnes len) : field w lo len = field r.pattern lo len := by
  rw [Row.fits, beq_iff_eq] at h
  rw [← h, field, field, BitVec.extractLsb'_and, ← field, ← field, hm, BitVec.and_allOnes]

/-- A row whose mask is all ones is fitted by its pattern only. -/
theorem Row.eq_of_fits {n : Nat} {r : Row n} {w : BitVec n} (h : r.fits w = true)
    (hm : r.mask = BitVec.allOnes n) : w = r.pattern := by
  rw [Row.fits, beq_iff_eq, hm, BitVec.and_allOnes] at h
  exact h

/-- A host word that fits a row has the row's opcode and, under the row's mask, the row's lower bits. -/
theorem Row.parts_of_fits {r : Row 32} {w : HostWord} (h : r.fits w = true) (hm : r.mask >>> 28 = 0xF#32) :
    w >>> 28 = r.pattern >>> 28 ∧ w &&& (r.mask &&& 0x0FFFFFFF#32) = r.pattern &&& 0x0FFFFFFF#32 := by
  rw [Row.fits, beq_iff_eq] at h
  have hop : w >>> 28 &&& 0xF#32 = w >>> 28 := by
    apply BitVec.eq_of_toNat_eq
    have := w.isLt
    rw [BitVec.toNat_and, BitVec.toNat_ushiftRight, Nat.shiftRight_eq_div_pow, BitVec.toNat_ofNat]
    exact Nat.and_two_pow_sub_one_of_lt_two_pow (n := 4) (by omega)
  constructor
  · rw [← h, BitVec.ushiftRight_and_distrib, hm, hop]
  · rw [← h, BitVec.and_assoc]

/-! ## Adjacent fields -/

/-- Adjacent fields make one field. -/
theorem field_append_field {n : Nat} (w : BitVec n) {hi lo m k : Nat} (h : hi = lo + k) :
    field w hi m ++ field w lo k = field w lo (m + k) :=
  BitVec.extractLsb'_append_extractLsb'_eq_extractLsb' h

theorem field_all {n : Nat} (w : BitVec n) : field w 0 n = w := BitVec.extractLsb'_eq_self

/-! ## Encoding the fields of a word gives the word back (30_encoding.md R62, R66) -/

theorem encode_fbset_fields {w : HostWord} (hop : field w 28 4 = Opcode.fbset) (h22 : field w 22 6 = 0#6)
    (h15 : field w 15 1 = 0#1) (h1 : field w 1 7 = 0#7) :
    encode (.fbset (field w 16 6) (field w 8 7) (field w 0 1)) = .host w :=
  congrArg Encoded.host (by simp only [← hop, ← h22, ← h15, ← h1, field_append_field, field_all])

theorem encode_fbget_fields {w : HostWord} (hop : field w 28 4 = Opcode.fbget) (h22 : field w 22 6 = 0#6)
    (h15 : field w 15 1 = 0#1) (h0 : field w 0 8 = 0#8) :
    encode (.fbget (field w 16 6) (field w 8 7)) = .host w :=
  congrArg Encoded.host (by simp only [← hop, ← h22, ← h15, ← h0, field_append_field, field_all])

theorem encode_ldgray_fields {w : HostWord} (hop : field w 28 4 = Opcode.ldgray) :
    encode (.ldgray (field w 14 14) (field w 0 14)) = .host w :=
  congrArg Encoded.host (by simp only [← hop, field_append_field, field_all])

/-- Format Z is an opcode over 28 zero bits. -/
theorem formatZ_of_zeroOperands {w : HostWord} {op : BitVec 4} (hop : field w 28 4 = op)
    (hz : zeroOperands w = true) : formatZ op = w := by
  rw [zeroOperands, beq_iff_eq] at hz
  simp only [formatZ, ← hop, ← hz, field_append_field, field_all]

theorem encode_setpage_field {b : Byte} (h : field b 3 5 = 0b10110#5) : encode (.setpage (field b 0 3)) = .wire b :=
  congrArg Encoded.wire (by simp only [← h, field_append_field, field_all])

/-! ## Decoding and encoding -/

/-- A host word that decodes is the encoding of what it decodes to. -/
theorem encode_of_decodeHost {w : HostWord} {i : Instr} (h : decodeHost w = .ok i) : encode i = .host w := by
  have zero {op : BitVec 4} {j : Instr} (hop : field w 28 4 = op) (h : unlessSet (zeroOperands w) j = .ok i)
      (hj : encode j = .host (formatZ op)) : encode i = .host w := by
    obtain ⟨hz, rfl⟩ := unlessSet_ok.1 h
    rw [hj, formatZ_of_zeroOperands hop hz]
  unfold decodeHost at h
  dsimp only at h
  split at h
  case isTrue hop =>
    obtain ⟨hz, rfl⟩ := unlessSet_ok.1 h
    simp only [Bool.and_eq_true, beq_iff_eq] at hz
    obtain ⟨⟨h22, h15⟩, h1⟩ := hz
    exact encode_fbset_fields hop h22 h15 h1
  split at h
  case isTrue hop =>
    obtain ⟨hz, rfl⟩ := unlessSet_ok.1 h
    simp only [Bool.and_eq_true, beq_iff_eq] at hz
    obtain ⟨⟨h22, h15⟩, h0⟩ := hz
    exact encode_fbget_fields hop h22 h15 h0
  split at h
  case isTrue hop => exact zero hop h rfl
  split at h
  case isTrue hop => cases h; exact encode_ldgray_fields hop
  split at h
  case isTrue hop => exact zero hop h rfl
  split at h
  case isTrue hop => exact zero hop h rfl
  split at h
  case isTrue hop => exact zero hop h rfl
  cases h

/-- A byte that decodes is the encoding of what it decodes to. -/
theorem encode_of_decodeWire {b : Byte} {i : Instr} (h : decodeWire b = .ok i) : encode i = .wire b := by
  unfold decodeWire at h
  split at h
  case isTrue hb => cases h; exact encode_setpage_field hb
  split at h
  case isTrue hb => cases h; rw [hb]; rfl
  split at h
  case isTrue hb => cases h; rw [hb]; rfl
  split at h
  case isTrue hb => cases h; rw [hb]; rfl
  cases h

/-- Settles O2: in each space, format by format. -/
theorem encodeOfDecode : Obligations.EncodeOfDecode := by
  intro e i h
  cases e with
  | host w => exact encode_of_decodeHost h
  | wire b => exact encode_of_decodeWire h

/-! ## The decoder, row by row -/

section
variable {w : HostWord}

theorem decodeHost_fbset (hop : field w 28 4 = Opcode.fbset) (h22 : field w 22 6 = 0#6)
    (h15 : field w 15 1 = 0#1) (h1 : field w 1 7 = 0#7) :
    decodeHost w = .ok (.fbset (field w 16 6) (field w 8 7) (field w 0 1)) := by
  simp [decodeHost, unlessSet, hop, h22, h15, h1]

theorem decodeHost_fbget (hop : field w 28 4 = Opcode.fbget) (h22 : field w 22 6 = 0#6)
    (h15 : field w 15 1 = 0#1) (h0 : field w 0 8 = 0#8) :
    decodeHost w = .ok (.fbget (field w 16 6) (field w 8 7)) := by
  have hne : Opcode.fbget ≠ Opcode.fbset := by decide
  simp [decodeHost, unlessSet, hop, hne, h22, h15, h0]

theorem decodeHost_ldgray (hop : field w 28 4 = Opcode.ldgray) :
    decodeHost w = .ok (.ldgray (field w 14 14) (field w 0 14)) := by
  unfold decodeHost
  rw [hop]
  rfl

end

/-- A field whose digits are those of `v`. -/
theorem field_eq_of_toNat {n lo len : Nat} {w : BitVec n} {v : BitVec len}
    (h : w.toNat / 2 ^ lo % 2 ^ len = v.toNat) : field w lo len = v :=
  BitVec.eq_of_toNat_eq (by rw [toNat_field, h])

theorem decode_encode_fbset (row : BitVec 6) (col : BitVec 7) (val : Bit) :
    decode (encode (.fbset row col val)) = .ok (.fbset row col val) := by
  obtain ⟨w, hw, hn⟩ : ∃ w, encode (.fbset row col val) = .host w ∧
      w.toNat = 0x10000000 + row.toNat * 65536 + col.toNat * 256 + val.toNat :=
    ⟨_, rfl, by simp only [toNat_append_add, Opcode.fbset, BitVec.toNat_ofNat]; omega⟩
  have hrow : field w 16 6 = row := field_eq_of_toNat (by omega)
  have hcol : field w 8 7 = col := field_eq_of_toNat (by omega)
  have hval : field w 0 1 = val := field_eq_of_toNat (by omega)
  rw [hw, decode, decodeHost_fbset, hrow, hcol, hval] <;> apply field_eq_of_toNat <;>
    simp only [Opcode.fbset, BitVec.toNat_ofNat] <;> omega

theorem decode_encode_fbget (row : BitVec 6) (col : BitVec 7) :
    decode (encode (.fbget row col)) = .ok (.fbget row col) := by
  obtain ⟨w, hw, hn⟩ : ∃ w, encode (.fbget row col) = .host w ∧
      w.toNat = 0x20000000 + row.toNat * 65536 + col.toNat * 256 :=
    ⟨_, rfl, by simp only [toNat_append_add, Opcode.fbget, BitVec.toNat_ofNat]; omega⟩
  have hrow : field w 16 6 = row := field_eq_of_toNat (by omega)
  have hcol : field w 8 7 = col := field_eq_of_toNat (by omega)
  rw [hw, decode, decodeHost_fbget, hrow, hcol] <;> apply field_eq_of_toNat <;>
    simp only [Opcode.fbget, BitVec.toNat_ofNat] <;> omega

theorem decode_encode_ldgray (wd ht : BitVec 14) : decode (encode (.ldgray wd ht)) = .ok (.ldgray wd ht) := by
  obtain ⟨w, hw, hn⟩ : ∃ w, encode (.ldgray wd ht) = .host w ∧
      w.toNat = 0x40000000 + wd.toNat * 16384 + ht.toNat :=
    ⟨_, rfl, by simp only [toNat_append_add, Opcode.ldgray, BitVec.toNat_ofNat]; omega⟩
  have hop : field w 28 4 = Opcode.ldgray :=
    field_eq_of_toNat (by simp only [Opcode.ldgray, BitVec.toNat_ofNat]; omega)
  have hwd : field w 14 14 = wd := field_eq_of_toNat (by omega)
  have hht : field w 0 14 = ht := field_eq_of_toNat (by omega)
  rw [hw, decode, decodeHost_ldgray hop, hwd, hht]

theorem decode_encode_setpage (d : BitVec 3) : decode (encode (.setpage d)) = .ok (.setpage d) := by
  revert d
  decide

/-- Settles O1: the operands are read back from their fields; a word without operands is one number. -/
theorem decodeOfEncode : Obligations.DecodeOfEncode := by
  intro i
  cases i with
  | fbset row col val => exact decode_encode_fbset row col val
  | fbget row col => exact decode_encode_fbget row col
  | ldgray wd ht => exact decode_encode_ldgray wd ht
  | setpage d => exact decode_encode_setpage d
  | fbclr | config | init | render | setcollo | setcolhi | dispon => rfl

/-- Settles O4: each word of the list is an encoding. -/
theorem wordsReadRight : Obligations.WordsReadRight :=
  ⟨decodeOfEncode (.fbset 37 64 1), decodeOfEncode (.fbget 8 5), decodeOfEncode .fbclr, decodeOfEncode (.ldgray 64 128),
    decodeOfEncode .config, decodeOfEncode .init, decodeOfEncode .render, decodeOfEncode (.setpage 5),
    decodeOfEncode .setcollo, decodeOfEncode .setcolhi, decodeOfEncode .dispon⟩

/-! ## The match and mask lists -/

theorem encode_wellFormed (i : Instr) : (encode i).wellFormed = true := by
  cases i with
  | fbset row col val => exact Laws.Encodes.fbset row col val
  | fbget row col => exact Laws.Encodes.fbget row col
  | fbclr => exact Laws.Encodes.fbclr
  | ldgray wd ht => exact Laws.Encodes.ldgray wd ht
  | config => exact Laws.Encodes.config
  | init => exact Laws.Encodes.init
  | render => exact Laws.Encodes.render
  | setpage d => exact Laws.Encodes.setpage d
  | setcollo => exact Laws.Encodes.setcollo
  | setcolhi => exact Laws.Encodes.setcolhi
  | dispon => exact Laws.Encodes.dispon

theorem decodes_of_host_wellFormed {w : HostWord} (h : (Encoded.host w).wellFormed = true) :
    ∃ i, decodeHost w = .ok i := by
  obtain ⟨r, hr, h⟩ := List.any_eq_true.1 h
  simp only [hostRows, List.mem_cons, List.not_mem_nil, or_false] at hr
  rcases hr with rfl | rfl | rfl | rfl | rfl | rfl | rfl
  · exact ⟨_, decodeHost_fbset (Row.field_of_fits h 28 4 rfl) (Row.field_of_fits h 22 6 rfl)
      (Row.field_of_fits h 15 1 rfl) (Row.field_of_fits h 1 7 rfl)⟩
  · exact ⟨_, decodeHost_fbget (Row.field_of_fits h 28 4 rfl) (Row.field_of_fits h 22 6 rfl)
      (Row.field_of_fits h 15 1 rfl) (Row.field_of_fits h 0 8 rfl)⟩
  · exact ⟨.fbclr, Row.eq_of_fits h rfl ▸ rfl⟩
  · exact ⟨_, decodeHost_ldgray (Row.field_of_fits h 28 4 rfl)⟩
  · exact ⟨.config, Row.eq_of_fits h rfl ▸ rfl⟩
  · exact ⟨.init, Row.eq_of_fits h rfl ▸ rfl⟩
  · exact ⟨.render, Row.eq_of_fits h rfl ▸ rfl⟩

theorem decodes_of_wire_wellFormed {b : Byte} (h : (Encoded.wire b).wellFormed = true) :
    ∃ i, decodeWire b = .ok i := by
  obtain ⟨r, hr, h⟩ := List.any_eq_true.1 h
  simp only [wireRows, List.mem_cons, List.not_mem_nil, or_false] at hr
  rcases hr with rfl | rfl | rfl | rfl
  · exact ⟨_, if_pos (Row.field_of_fits h 3 5 rfl)⟩
  · exact ⟨.setcollo, Row.eq_of_fits h rfl ▸ rfl⟩
  · exact ⟨.setcolhi, Row.eq_of_fits h rfl ▸ rfl⟩
  · exact ⟨.dispon, Row.eq_of_fits h rfl ▸ rfl⟩

/-- Settles O3: what decodes is an encoding, and encodings fit; a row's mask covers every guard of its decoding. -/
theorem decodeAcceptsExactlyTheRows : Obligations.DecodeAcceptsExactlyTheRows := by
  intro e
  constructor
  · rintro ⟨i, h⟩
    exact encodeOfDecode e i h ▸ encode_wellFormed i
  · intro h
    cases e with
    | host w => exact decodes_of_host_wellFormed h
    | wire b => exact decodes_of_wire_wellFormed h

end Sys2Proof
end

section
/-!
PROOFS. What a step makes of the word on the host port (30_encoding.md R64, R65), the one response per accepted word,
and the first command byte of a page (R67).
-/

namespace Sys2Proof.Machine

variable {s t u : State} {w : HostWord} {ws : List HostWord}

/-! ## The word on the port of an idle block -/

/-- Settles O6: neither reset nor an operation in flight nor Halted comes before the word. -/
theorem stepRunsTheHostWord : Obligations.StepRunsTheHostWord := by
  intro s w ws i hr hd hb hw hdec
  simp [step, fetch, fetchHost, hr, hd, hb, hw, hdec]

/-- A word that does not decode is answered, and nothing else happens. -/
theorem step_rejectedEncoding (hr : s.inReset = false) (hd : s.drv ≠ .halted) (hb : s.busy = false)
    (hw : s.inWords = w :: ws) {r : Reject} (hdec : decodeHost w = .error r) :
    step s = .next (answer .rejectedEncoding 0#1 { s with inWords := ws }) := by
  simp [step, fetch, fetchHost, hr, hd, hb, hw, hdec]

/-! ## Reserved words -/

/-- The reserved words of 30_encoding.md R65: a reserved opcode, or a 1 in a bit that the format marks 0. -/
def ReservedWord (w : HostWord) : Prop :=
  let op := w >>> 28
  op = 0 ∨ 8 ≤ op ∨ (op = 1 ∧ w &&& 0x0FC080FE ≠ 0) ∨ (op = 2 ∧ w &&& 0x0FC080FF ≠ 0) ∨
    ((op = 3 ∨ op = 5 ∨ op = 6 ∨ op = 7) ∧ w &&& 0x0FFFFFFF ≠ 0)

/-- A reserved word fits no row: the opcode leaves at most one row, and that row has the offending bit 0. -/
theorem ReservedWord.not_fits (h : ReservedWord w) {r : Row 32} (hr : r ∈ hostRows) : r.fits w ≠ true := by
  intro hf
  simp only [hostRows, List.mem_cons, List.not_mem_nil, or_false] at hr
  rcases hr with rfl | rfl | rfl | rfl | rfl | rfl | rfl <;> obtain ⟨hop, hlow⟩ := Row.parts_of_fits hf rfl
  case inr.inr.inr.inl => exact absurd h (by simp [ReservedWord, hop])
  all_goals exact absurd h (by simpa [ReservedWord, hop] using hlow)

theorem ReservedWord.decodeHost_error (h : ReservedWord w) : ∃ r, decodeHost w = .error r := by
  cases hdec : decodeHost w with
  | error r => exact ⟨r, rfl⟩
  | ok i =>
    have hwf := (decodeAcceptsExactlyTheRows (.host w)).1 ⟨i, hdec⟩
    obtain ⟨r, hr, hf⟩ := List.any_eq_true.1 hwf
    exact absurd hf (h.not_fits hr)

/-! ## Words of opcode 4 -/

theorem opcode_ldgray_of_shift (h : w >>> 28 = 4) : field w 28 4 = Opcode.ldgray := by
  apply field_eq_of_toNat
  rw [← Nat.shiftRight_eq_div_pow, ← BitVec.toNat_ushiftRight, h]
  rfl

/-- The one word of opcode 4 with legal dimensions. -/
theorem ldgray_word_of_legal (hop : field w 28 4 = Opcode.ldgray)
    (hdim : dimensionsLegal (field w 14 14) (field w 0 14) = true) : w = 0x40200040 := by
  simp only [dimensionsLegal, Bool.and_eq_true, beq_iff_eq] at hdim
  obtain ⟨hwidth, hheight⟩ := hdim
  have hw := encode_ldgray_fields hop
  rw [hwidth, hheight] at hw
  exact (Encoded.host.inj hw).symm

/-- LDGRAY in a ready block: the dimension guard decides (60_exceptions.md R143). -/
theorem exec_ldgray_ready (h : s.Ready) (wd ht : BitVec 14) :
    exec (.ldgray wd ht) s = .next
      (if dimensionsLegal wd ht then takeSamples { s with busy := true, opc := Opcode.ldgray }
      else raise .dimensionMismatch 0#5 { s with busy := true, opc := Opcode.ldgray }) := by
  simp only [exec, execLdgray]
  exact accept_ready _ _ h

@[simp] theorem takeSamples_drv (s : State) : (takeSamples s).drv = s.drv := by
  rcases takeSamples_eq s with ⟨_, e⟩ | ⟨_, e⟩ <;> rw [e]
  rfl

/-- Settles O9: a reserved word fits no row of R62; a word of opcode 4 decodes to an LDGRAY of its two fields, and they
are 128 and 64 in one word only. -/
theorem reservedWordsAreRejected : Obligations.ReservedWordsAreRejected := by
  intro s w ws hr hready hw
  have ⟨hd, hb, _⟩ := hready
  have taken : State.Ready { s with inWords := ws } := hready
  have legal : (0x40200040 : HostWord) >>> 28 = 4 := by decide
  have dec (hop : w >>> 28 = 4) := decodeHost_ldgray (opcode_ldgray_of_shift hop)
  have runs {i : Instr} (hdec : decodeHost w = .ok i) := stepRunsTheHostWord s w ws i hr hd hb hw hdec
  refine ⟨fun hres => ?reserved, fun hop => ⟨dec hop, runs (dec hop)⟩, fun hop hne => ?mismatch, fun heq => ?legal⟩
  case reserved =>
    obtain ⟨r, hdec⟩ := ReservedWord.decodeHost_error hres
    exact step_rejectedEncoding hr hd hb hw hdec
  case mismatch =>
    have hdim : ¬dimensionsLegal (field w 14 14) (field w 0 14) = true :=
      fun hdim => hne (ldgray_word_of_legal (opcode_ldgray_of_shift hop) hdim)
    have hexec := exec_ldgray_ready taken (field w 14 14) (field w 0 14)
    rw [if_neg hdim] at hexec
    exact ⟨_, (runs (dec hop)).trans hexec, rfl, rfl⟩
  case legal =>
    subst heq
    have hdec : decodeHost 0x40200040 = .ok (.ldgray 128 64) := dec legal
    exact ⟨hdec, runs hdec, _, (runs hdec).trans (exec_ldgray_ready taken 128 64), takeSamples_drv _⟩

/-! ## The block with an operation in flight -/

/-- An operation in flight waits without taking a word. -/
theorem Begun.inWords_eq {op : BitVec 4} {fresh : Prop} (b : Begun s op fresh u) (hb : s.busy = true) :
    u.inWords = s.inWords := by
  cases b with
  | accepted w ws idle word ok => rw [hb] at idle; cases idle
  | waiting busy opc still => rfl

/-- What follows an answered transfer leaves the port alone; it ends the operation with one response, or goes on with
none. -/
theorem afterTransfer_port (res : Result) (s : State) :
    (afterTransfer res s).inWords = s.inWords ∧
    (((afterTransfer res s).busy = false ∧ ∃ r, (afterTransfer res s).resps = s.resps ++ [r]) ∨
      ((afterTransfer res s).busy = s.busy ∧ (afterTransfer res s).resps = s.resps)) := by
  rcases afterTransfer_eq res s with ⟨_, e⟩ | ⟨_, _, e⟩ | ⟨_, _, _, e⟩ | ⟨_, _, _, _, e⟩ | ⟨_, _, _, _, e⟩ <;> rw [e]
  · exact ⟨rfl, .inl ⟨rfl, _, rfl⟩⟩
  · exact ⟨rfl, .inl ⟨rfl, _, rfl⟩⟩
  · exact ⟨rfl, .inr ⟨rfl, rfl⟩⟩
  · exact ⟨rfl, .inl ⟨rfl, _, rfl⟩⟩
  · exact ⟨rfl, .inr ⟨rfl, rfl⟩⟩

@[simp] theorem afterTransfer_inWords (res : Result) (s : State) : (afterTransfer res s).inWords = s.inWords :=
  (afterTransfer_port res s).1

/-- Settles O11: the cases of a step that take a word are those of an idle block; who writes the framebuffer is O21. -/
theorem busyBlockTakesNoWord : Obligations.BusyBlockTakesNoWord := by
  intro s t hr hb hstep
  constructor
  · cases (step_cases hstep).1 with
    | reset asserted => rw [hr] at asserted; cases asserted
    | samplesMissing _ b | samplesTaken _ b | acqMissing _ b | acqOk _ _ b | acqFail _ _ b =>
      exact b.inWords_eq hb
    | held | initLowHeld | initRise | initHighHeld | commandByte | dataByte | answered => simp
    | rejectedEncoding _ _ idle | rejectedState _ _ idle | fbset _ _ _ _ _ idle | fbget _ _ _ idle | fbclr _ _ idle
    | wrongDimensions _ _ idle | initStart _ _ idle | renderStart _ _ idle => rw [hb] at idle; cases idle
  · intro hop
    by_contra hne
    rcases onlyThreeOperationsWriteTheFramebuffer s t hr hstep hne with ⟨-, hld⟩ | ⟨idle, -⟩
    · exact hop hld
    · rw [hb] at idle; cases idle

/-! ## Words, operations in flight and responses -/

/-- Responses given, operations in flight and words still on the port, together (30_encoding.md R64). -/
def State.account (s : State) : Nat := s.resps.length + (if s.busy then 1 else 0) + s.inWords.length

/-- A word answered at once, with no operation begun. -/
theorem account_answer (idle : s.busy = false) (word : s.inWords = w :: ws) (code : RespCode) :
    (answer code 0#1 { s with inWords := ws }).account = s.account := by
  simp [State.account, idle, word]
  omega

/-- A word taken by an operation. -/
theorem account_accepted (idle : s.busy = false) (word : s.inWords = w :: ws) (op : BitVec 4) :
    State.account { s with inWords := ws, busy := true, opc := op } = s.account := by
  simp [State.account, idle, word]
  omega

/-- An operation in flight that ends with its response. -/
theorem account_respond (hb : s.busy = true) (code : RespCode) (bit : Bit) :
    (respond code bit s).account = s.account := by
  simp [State.account, hb]

/-- A word whose operation responds in the step that takes it. -/
theorem account_completed (idle : s.busy = false) (word : s.inWords = w :: ws) (op : BitVec 4) (m : Framebuffer)
    (bit : Bit) : (respond .ok bit { s with inWords := ws, busy := true, opc := op, fb := m }).account = s.account :=
  (account_respond rfl .ok bit).trans (account_accepted idle word op)

theorem account_raise (hb : s.busy = true) (e : ErrorKind) (index : BitVec 5) :
    (raise e index s).account = s.account := by
  simp [State.account, hb]

theorem Begun.account_eq {op : BitVec 4} {fresh : Prop} (b : Begun s op fresh u) : u.account = s.account := by
  cases b with
  | accepted w ws idle word ok => exact account_accepted idle word op
  | waiting busy opc still => rfl

theorem account_afterTransfer (hb : s.busy = true) (res : Result) : (afterTransfer res s).account = s.account := by
  obtain ⟨-, ⟨hidle, r, hresp⟩ | ⟨hbusy, hresp⟩⟩ := afterTransfer_port res s
  · simp [State.account, hidle, hresp, hb]
  · simp [State.account, hbusy, hresp]

/-- A step that is no hardware reset keeps the account. -/
theorem step_account (hr : s.inReset = false) (hstep : step s = .next t) : t.account = s.account := by
  cases (step_cases hstep).1 with
  | reset asserted => rw [hr] at asserted; cases asserted
  | rejectedEncoding w ws idle word | rejectedState w ws idle word => exact account_answer idle word _
  | fbset w ws row col val idle word | fbget w ws bit idle word | fbclr w ws idle word =>
    exact account_completed idle word _ _ _
  | wrongDimensions w ws idle word => exact (account_raise rfl _ _).trans (account_accepted idle word _)
  | initStart w ws idle word => exact account_accepted idle word Opcode.init
  | renderStart w ws idle word => exact account_accepted idle word Opcode.render
  | samplesMissing _ b | acqMissing _ b => exact b.account_eq
  | samplesTaken _ b | acqOk _ _ b => exact (account_respond b.busy_eq _ _).trans b.account_eq
  | acqFail _ _ b => exact (account_raise b.busy_eq .acquisitionFailure 0#5).trans b.account_eq
  | answered a rest sending ans when' =>
    exact account_afterTransfer (s := endSend a.result s) (State.inTransfer_iff.1 sending).1 a.result
  | held | initLowHeld | initRise | initHighHeld => rfl
  | commandByte | dataByte => simp [State.account]

/-- Settles O12: `State.account` is what the statement adds up. -/
theorem oneResponsePerAcceptedWord : Obligations.OneResponsePerAcceptedWord := fun _ _ hr hstep => step_account hr hstep

/-! ## The first command byte of a page -/

/-- The forms of R67, page by page. -/
theorem setpageByte_forms (p : BitVec 3) :
    let b : Byte := 0xB0#8 + (7#8 - p.setWidth 8)
    (pageCmd p.toNat)[0]? = some b ∧ 0b10110#5 ++ ~~~p = b ∧
    b = 0b10110#5 ++ (7#3 - p) ∧ b = 0xB7#8 - p.setWidth 8 ∧ b = 0xB0#8 ||| (p.setWidth 8 ^^^ 7#8) ∧
    (7#8 - p.setWidth 8).toNat = 7 - p.toNat ∧ b.toNat = 0xB0 + (7 - p.toNat) ∧
    0xB0 ≤ b.toNat ∧ b.toNat ≤ 0xB7 := by
  revert p
  decide

/-- CS offers the page's first command byte at byte 0 of RENDER (42_command_sequencer.md R106). -/
theorem csByte_render_zero (ho : s.opc = Opcode.render) (hb : s.bi = 0#7) : csByte s = 0b10110#5 ++ ~~~s.p := by
  rw [csByte, if_neg (by rw [ho]; decide), if_pos hb]

/-- Settles O5: PAGECMD and CS offer one byte, and its forms agree on all eight pages. -/
theorem setpageByteHasFourForms : Obligations.SetpageByteHasFourForms := by
  intro p
  obtain ⟨hcmd, hcs, hforms⟩ := setpageByte_forms p
  refine ⟨hcmd, fun s ho hb hp => ?_, hforms⟩
  rw [csByte_render_zero ho hb, hp, hcs]

end Sys2Proof.Machine
end

section
/-!
PROOFS. The framebuffer operations (40_framebuffer.md): the whole next state of each in a ready block, the cells after
each, and the framebuffer as an array under FBGET (R86).
-/

namespace Sys2Proof.Machine

variable {s t : State} {m : Framebuffer} {samples : List Byte}

/-! ## Cells -/

/-- A cell after a write to a cell (20_memory.md R41). -/
theorem pixel_write (hm : m.wf = true) (row r : BitVec 6) (col c : BitVec 7) (val : Bit) :
    (m.write (cellAddr row col) val).pixel r.toNat c.toNat =
      if r = row ∧ c = col then val else m.pixel r.toNat c.toNat := by
  have same_cell : cellAddr r c = cellAddr row col ↔ r = row ∧ c = col :=
    ⟨Framebuffer.cellAddr_inj, fun ⟨hr, hc⟩ => by rw [hr, hc]⟩
  have hread := Framebuffer.read_write hm (cellAddr row col) (cellAddr r c) val
  simp only [same_cell] at hread
  exact hread

/-- Of a stream with 8192 samples, the cell at address `n` holds the threshold of sample `n`. -/
theorem read_grayFrame_take (henough : 8192 ≤ samples.length) {n : Nat} (hn : n < 8192) :
    (grayFrame (samples.take 8192)).read n = threshold (samples.getD n 0) := by
  have hlen : (samples.take 8192).length = 8192 := List.length_take_of_le henough
  rw [Framebuffer.read_grayFrame _ hlen.le n (hlen.symm ▸ hn)]
  simp [List.getD, List.getElem?_take_of_lt hn]

/-- Sample `n` belongs to row `n / 128`, column `n % 128` (R85, 20_memory.md R41). -/
theorem pixel_grayFrame_take (henough : 8192 ≤ samples.length) {n : Nat} (hn : n < 8192) :
    (grayFrame (samples.take 8192)).pixel (n / 128) (n % 128) = threshold (samples.getD n 0) := by
  rw [Framebuffer.pixel, Nat.div_add_mod, read_grayFrame_take henough hn]

/-! ## The next state of each operation -/

/-- An operation that responds in the step that accepts it leaves BUSY and OPC as a ready block has them. -/
theorem respond_of_ready (h : s.Ready) (op : BitVec 4) (bit : Bit) (m : Framebuffer) (rest : List Byte) :
    respond .ok bit { s with busy := true, opc := op, fb := m, inSamples := rest } =
      { s with fb := m, inSamples := rest, resps := s.resps ++ [⟨.ok, bit⟩] } := by
  obtain ⟨-, hb, ho⟩ := h
  simp [respond, answer, hb, ho]

theorem exec_fbset_ready (h : s.Ready) (row : BitVec 6) (col : BitVec 7) (val : Bit) :
    exec (.fbset row col val) s = .next
      { s with fb := s.fb.write (cellAddr row col) val, resps := s.resps ++ [⟨.ok, 0#1⟩] } := by
  rw [exec, execFbset, accept_ready _ _ h, respond_of_ready h]

theorem exec_fbget_ready (h : s.Ready) (row : BitVec 6) (col : BitVec 7) :
    exec (.fbget row col) s =
      .next { s with resps := s.resps ++ [⟨.ok, s.fb.pixel row.toNat col.toNat⟩] } := by
  rw [exec, execFbget, accept_ready _ _ h, respond_of_ready h]
  rfl

theorem exec_fbclr_ready (h : s.Ready) :
    exec .fbclr s = .next { s with fb := [], resps := s.resps ++ [⟨.ok, 0#1⟩] } := by
  rw [exec, execFbclr, accept_ready _ _ h, respond_of_ready h]

theorem takeSamples_of_enough (henough : 8192 ≤ s.inSamples.length) :
    takeSamples s = respond .ok 0#1
      { s with fb := grayFrame (s.inSamples.take 8192), inSamples := s.inSamples.drop 8192 } := if_pos henough

theorem takeSamples_of_short (hshort : s.inSamples.length < 8192) : takeSamples s = s := if_neg (by omega)

/-- LDGRAY with the legal dimensions is accepted and comes to its second part. -/
theorem exec_ldgray_legal (h : s.Ready) :
    exec (.ldgray 128 64) s = .next (takeSamples { s with busy := true, opc := Opcode.ldgray }) :=
  exec_ldgray_ready h 128 64

/-- LDGRAY with the legal dimensions and its samples there. -/
theorem exec_ldgray_enough (h : s.Ready) (henough : 8192 ≤ s.inSamples.length) :
    exec (.ldgray 128 64) s = .next
      { s with
        fb := grayFrame (s.inSamples.take 8192), inSamples := s.inSamples.drop 8192,
        resps := s.resps ++ [⟨.ok, 0#1⟩] } := by
  have taken := takeSamples_of_enough (s := { s with busy := true, opc := Opcode.ldgray }) henough
  rw [exec_ldgray_legal h, taken, respond_of_ready h]

/-- A step of an LDGRAY in flight is its second part. -/
theorem step_ldgray_waiting (hr : s.inReset = false) (hd : s.drv ≠ .halted) (hb : s.busy = true)
    (ho : s.opc = Opcode.ldgray) (hx : s.xfer = .none) : step s = .next (takeSamples s) := by
  have hc : s.sendingCommand = false := by simp [State.sendingCommand, hx]
  rw [step_advance hr hd hb (.inl hc)]
  simp [advance, hx, ho]

/-! ## The operations one by one -/

/-- Settles O13: the write of one cell, read back cell by cell. -/
theorem fbsetWritesOneCell : Obligations.FbsetWritesOneCell := by
  intro s row col val h hm
  exact ⟨_, exec_fbset_ready h row col val, Framebuffer.wf_write hm val (Framebuffer.cellAddr_lt row col),
    fun r c => pixel_write hm row r col c val⟩

/-- Settles O14: a cell's address is where `pixel` reads. -/
theorem fbgetAnswersTheCell : Obligations.FbgetAnswersTheCell :=
  fun _ row col h => exec_fbget_ready h row col

/-- Settles O15: the empty list is the framebuffer with every cell off. -/
theorem fbclrTurnsEveryCellOff : Obligations.FbclrTurnsEveryCellOff :=
  fun _ h => ⟨[], exec_fbclr_ready h, Framebuffer.wf_nil, fun _ _ _ _ => Framebuffer.read_nil _⟩

/-- Settles O16: the frame is made of the first 8192 samples, row-major. -/
theorem ldgrayLoadsTheSamples : Obligations.LdgrayLoadsTheSamples :=
  fun _ h henough => ⟨_, exec_ldgray_enough h henough, Framebuffer.wf_grayFrame _ (List.length_take_le _ _),
    fun _ hn => pixel_grayFrame_take henough hn⟩

/-- Settles O17: the dimension guard fails, and what `raise` clears is clear already in a block at rest. -/
theorem ldgrayWrongDimensionsHalt : Obligations.LdgrayWrongDimensionsHalt := by
  intro s w ht h hrest hne
  have hguard : ¬dimensionsLegal w ht = true := by
    simpa [dimensionsLegal, imp_iff_not_or] using hne
  rw [exec_ldgray_ready h, if_neg hguard]
  obtain ⟨-, hb, ho⟩ := h
  obtain ⟨hstg, hp, hph, hbi, htmr, hx⟩ := hrest
  simp [raise, answer, hb, ho, hstg, hp, hph, hbi, htmr, hx, Opcode.ldgray]

/-- Settles O18: acceptance and every later step come to LDGRAY's second part, which a short stream holds. -/
theorem ldgrayWaitsForSamples : Obligations.LdgrayWaitsForSamples := by
  refine ⟨fun s h hshort => ?accepted, fun s hr hd hb ho hx => ⟨fun hshort => ?held, fun henough => ?completes⟩⟩
  case accepted =>
    have waits := takeSamples_of_short (s := { s with busy := true, opc := Opcode.ldgray }) hshort
    exact (exec_ldgray_legal h).trans (congrArg _ waits)
  case held => rw [step_ldgray_waiting hr hd hb ho hx, takeSamples_of_short hshort]
  case completes =>
    have hstep := step_ldgray_waiting hr hd hb ho hx
    rw [takeSamples_of_enough henough] at hstep
    exact ⟨_, hstep, fun n hn => pixel_grayFrame_take henough hn⟩

/-! ## The threshold -/

/-- `Config.thresh` is 127, and the order of bytes is that of their numbers. -/
theorem threshold_eq_ite (v : Byte) : threshold v = if 127 < v.toNat then 1#1 else 0#1 := rfl

/-- A byte is above 127 exactly when its top bit is set. -/
theorem threshold_eq_topBit (v : Byte) : threshold v = field v 7 1 := by
  apply BitVec.eq_of_toNat_eq
  rw [threshold_eq_ite, toNat_field]
  have hv := v.isLt
  split <;> rw [BitVec.toNat_ofNat] <;> omega

/-- Settles O19: the comparison and the top bit for every sample; the four boundary values by evaluation. -/
theorem thresholdIsTheTopBit : Obligations.ThresholdIsTheTopBit :=
  ⟨fun v => ⟨threshold_eq_ite v, threshold_eq_topBit v⟩, by decide⟩

/-! ## The framebuffer as an array -/

/-- In a ready block FBGET answers the bit that the cell holds and no other. -/
theorem answersFbget_iff (h : s.Ready) {r : BitVec 6} {c : BitVec 7} {v : Bit} :
    s.AnswersFbget r c v ↔ s.fb.pixel r.toNat c.toNat = v := by
  rw [State.AnswersFbget, exec_fbget_ready h]
  constructor
  · intro heq
    have hresps := congrArg State.resps (Host.Outcome.next.inj heq)
    simpa using hresps
  · rintro rfl
    rfl

/-- A ready block stays ready with another framebuffer, fewer samples and one more response. -/
theorem State.Ready.with_fb (h : s.Ready) (m : Framebuffer) (rest : List Byte) (rs : List Response) :
    State.Ready { s with fb := m, inSamples := rest, resps := rs } := h

@[simp] theorem askAcquisition_fb (s : State) : (askAcquisition s).fb = s.fb := by
  rcases askAcquisition_eq s with ⟨_, e⟩ | ⟨_, _, e⟩ | ⟨_, _, e⟩ <;> rw [e] <;> rfl

/-- Acceptance of an operation that keeps the framebuffer keeps it, rejected or not. -/
theorem accept_keeps_fb {op : BitVec 4} {allowed : Bool} {run : State → State} (h : accept op allowed run s = .next t)
    (hrun : ∀ u, (run u).fb = u.fb) : t.fb = s.fb := by
  rcases accept_eq op allowed run s with ⟨_, e⟩ | ⟨_, _, e⟩ | ⟨_, _, _, e⟩ | ⟨_, _, _, e⟩ <;>
    rw [e] at h <;> cases h
  · rfl
  · exact hrun _
  · rfl

/-- Settles O20: laws 1 to 4 compare the cells before and after; for law 5 the operation's parts keep the framebuffer,
and who writes it in a later step is O11. -/
theorem framebufferIsAnArray : Obligations.FramebufferIsAnArray := by
  intro s h hm
  refine ⟨fun r c v t hexec => ?written, fun r c v t r' c' v' hexec hne hget => ?other, fun t r c hexec => ?cleared,
    fun t r c hexec henough => ?loaded, fun t i hi hexec => ?kept,
    fun u v hr hb hop hstep => (busyBlockTakesNoWord u v hr hb hstep).2 hop⟩
  case written =>
    cases (exec_fbset_ready h r c v).symm.trans hexec
    refine (answersFbget_iff (h.with_fb ..)).2 ?_
    rw [pixel_write hm, if_pos ⟨rfl, rfl⟩]
  case other =>
    cases (exec_fbset_ready h r c v).symm.trans hexec
    refine (answersFbget_iff (h.with_fb ..)).2 ?_
    rw [pixel_write hm, if_neg fun ⟨hr, hc⟩ => hne (by rw [hr, hc])]
    exact (answersFbget_iff h).1 hget
  case cleared =>
    cases (exec_fbclr_ready h).symm.trans hexec
    exact (answersFbget_iff (h.with_fb ..)).2 (Framebuffer.read_nil _)
  case loaded =>
    cases (exec_ldgray_enough h henough).symm.trans hexec
    exact (answersFbget_iff (h.with_fb ..)).2 (read_grayFrame_take henough (Framebuffer.cellAddr_lt r c))
  case kept =>
    rcases hi with ⟨r, c, rfl⟩ | rfl | rfl | rfl <;> rw [exec] at hexec
    · rw [execFbget] at hexec
      exact accept_keeps_fb hexec fun _ => rfl
    · rw [execConfig] at hexec
      exact accept_keeps_fb hexec askAcquisition_fb
    · rw [execInit] at hexec
      exact accept_keeps_fb hexec fun _ => rfl
    · rw [execRender] at hexec
      exact accept_keeps_fb hexec fun _ => rfl

end Sys2Proof.Machine
end

section
/-!
PROOFS. The page encoder (41_page_encoder.md): a byte is its eight pixels, a page's data byte is the eight cells it
covers, and the frame stream is the encoded frame.
-/

namespace Sys2Proof.Machine

/-! ## Bytes and their pixels -/

/-- A byte is its eight pixels (R91). -/
theorem eq_of_unpackBit_eq {v w : Byte} (h : ∀ q < 8, unpackBit v q = unpackBit w q) : v = w := by
  apply BitVec.eq_of_getLsbD_eq
  intro b hb
  have hpixel : field v b 1 = field w b 1 := by
    have hq := h (7 - b) (by omega)
    rwa [unpackBit, unpackBit, show 7 - (7 - b) = b by omega] at hq
  simpa using (field_eq_iff v b 1 _).1 hpixel 0 Nat.one_pos

/-- Eight pixels given one by one, by their number: the form in which the lemmas about `pack8` take them. -/
def laneOf (b0 b1 b2 b3 b4 b5 b6 b7 : Bit) (q : Nat) : Bit := [b0, b1, b2, b3, b4, b5, b6, b7].getD q 0#1

/-- The pixels of a packed byte are the pixels packed, for pixels given by their number. -/
theorem unpackBit_pack8 (px : Nat → Bit) {q : Nat} (hq : q < 8) :
    unpackBit (pack8 (px 0) (px 1) (px 2) (px 3) (px 4) (px 5) (px 6) (px 7)) q = px q := by
  rw [unpackBit, field_pack8 px (by omega), show 7 - (7 - q) = q by omega]

theorem pack8_unpackBit (v : Byte) :
    pack8 (unpackBit v 0) (unpackBit v 1) (unpackBit v 2) (unpackBit v 3) (unpackBit v 4) (unpackBit v 5)
      (unpackBit v 6) (unpackBit v 7) = v :=
  eq_of_unpackBit_eq fun _ hq => unpackBit_pack8 (unpackBit v) hq

theorem unpackBit_or (v w : Byte) (q : Nat) : unpackBit (v ||| w) q = unpackBit v q ||| unpackBit w q :=
  BitVec.extractLsb'_or

theorem unpackBit_and (v w : Byte) (q : Nat) : unpackBit (v &&& w) q = unpackBit v q &&& unpackBit w q :=
  BitVec.extractLsb'_and

theorem unpackBit_not (v : Byte) (q : Nat) : unpackBit (~~~v) q = ~~~unpackBit v q := by
  have hq : 7 - q < 8 := by omega
  rw [unpackBit, field_eq_iff]
  intro i hi
  obtain rfl : i = 0 := by omega
  simp [unpackBit, hq]

/-- Pixel `k` alone is the byte `0x80 >> k` (R90). -/
theorem unpackBit_topBit_shift : ∀ k < 8, ∀ q < 8, unpackBit (0x80#8 >>> k) q = if q = k then 1#1 else 0#1 := by
  decide

theorem unpackBit_zero (q : Nat) : unpackBit 0#8 q = 0#1 := BitVec.extractLsb'_zero

/-- UNPACK8 of PACK8, for pixels given by their number. -/
theorem unpack8_pack8 (px : Nat → Bit) :
    unpack8 (pack8 (px 0) (px 1) (px 2) (px 3) (px 4) (px 5) (px 6) (px 7)) = (List.range 8).map px :=
  List.map_congr_left fun _ hq => unpackBit_pack8 px (List.mem_range.1 hq)

/-- One bit shifted up by `k` is pixel number `7 - k` alone. -/
theorem unpackBit_shiftLeft :
    ∀ x : Bit, ∀ k < 8, ∀ q < 8, unpackBit (x.setWidth 8 <<< k) q = if q = 7 - k then x else 0#1 := by
  decide

/-- PACK8 in the shift form of R90: of the eight lanes only the pixel's own reaches its place. -/
theorem pack8_eq_or_shifts (px : Nat → Bit) :
    let z (b : Bit) : Byte := b.setWidth 8
    pack8 (px 0) (px 1) (px 2) (px 3) (px 4) (px 5) (px 6) (px 7) =
      (z (px 0) <<< 7) ||| (z (px 1) <<< 6) ||| (z (px 2) <<< 5) ||| (z (px 3) <<< 4) ||| (z (px 4) <<< 3) |||
        (z (px 5) <<< 2) ||| (z (px 6) <<< 1) ||| (z (px 7) <<< 0) := by
  refine eq_of_unpackBit_eq fun q hq => ?_
  rw [unpackBit_pack8 px hq]
  simp (disch := omega) only [unpackBit_or, unpackBit_shiftLeft]
  interval_cases q <;> simp

/-! ## The cells of a data byte -/

/-- Pixel `q` of data byte `i` of page `p` is the cell in row `8p + q`, column `127 - i` (R92). -/
theorem unpackBit_pageByte (fb : Framebuffer) (p i : Nat) {q : Nat} (hq : q < 8) :
    unpackBit (pageByte fb p i) q = fb.pixel (8 * p + q) (127 - i) :=
  unpackBit_pack8 (fun q => fb.pixel (8 * p + q) (127 - i)) hq

/-- A data byte is known by the eight cells it covers. -/
theorem pageByte_eq_iff (fb : Framebuffer) (p i : Nat) (v : Byte) :
    pageByte fb p i = v ↔ ∀ q < 8, fb.pixel (8 * p + q) (127 - i) = unpackBit v q := by
  constructor
  · rintro rfl q hq
    exact (unpackBit_pageByte fb p i hq).symm
  · intro h
    exact eq_of_unpackBit_eq fun q hq => (unpackBit_pageByte fb p i hq).trans (h q hq)

/-- A page is known by the cells of its eight rows (R92). -/
theorem pageData_congr {fb fb' : Framebuffer} {p : Nat}
    (h : ∀ q < 8, ∀ c < 128, fb'.pixel (8 * p + q) c = fb.pixel (8 * p + q) c) :
    pageData fb' p = pageData fb p := by
  refine List.map_congr_left fun i _ => (pageByte_eq_iff ..).2 fun q hq => ?_
  rw [h q hq _ (by omega), unpackBit_pageByte fb p i hq]

/-- Settles O22: the lanes are numbered, and every byte is the packing of its own pixels. -/
theorem packPutsTheTopPixelHighest : Obligations.PackPutsTheTopPixelHighest := by
  refine ⟨fun b0 b1 b2 b3 b4 b5 b6 b7 => ?_, fun v => ⟨_, _, _, _, _, _, _, _, pack8_unpackBit v⟩, by decide⟩
  have lane {b : Nat} (hb : b < 8) := field_pack8 (laneOf b0 b1 b2 b3 b4 b5 b6 b7) hb
  exact ⟨pack8_eq_or_shifts (laneOf b0 b1 b2 b3 b4 b5 b6 b7), lane (by decide), lane (by decide), lane (by decide),
    lane (by decide), lane (by decide), lane (by decide), lane (by decide), lane (by decide), rfl⟩

/-- Settles O23: lane by lane; a page is decoded at the data byte of the mirrored column. -/
theorem unpackInvertsPack : Obligations.UnpackInvertsPack := by
  refine ⟨fun _ => rfl, fun b0 b1 b2 b3 b4 b5 b6 b7 => ?_, pack8_unpackBit, fun fb p _ q hq c hc => ?_⟩
  · exact unpack8_pack8 (laneOf b0 b1 b2 b3 b4 b5 b6 b7)
  · rw [List.getD, getElem?_pageData fb p (by omega), Option.getD_some, unpackBit_pageByte fb p _ hq,
      show 127 - (127 - c) = c by omega]

/-- Settles O24: the page's length, its bytes by index, and the cells it depends on. -/
theorem pageDataIsMirroredColumns : Obligations.PageDataIsMirroredColumns :=
  fun fb p _ => ⟨pageData_length fb p, fun _ hi => getElem?_pageData fb p hi, fun _ h => pageData_congr h⟩

/-! ## The laws of the encoder (R94) -/

/-- The framebuffer whose page `p` has the data bytes `data p`: the inverse of the encoder. -/
def frameOfBytes (data : Nat → Nat → Byte) : Framebuffer :=
  Framebuffer.ofPixels 0
    ((List.range 8192).map fun a => unpackBit (data (a / 128 / 8) (127 - a % 128)) (a / 128 % 8))

theorem wf_frameOfBytes (data : Nat → Nat → Byte) : (frameOfBytes data).wf = true :=
  Framebuffer.wfFrom_ofPixels 0 _ (by simp [Framebuffer.size])

theorem pixel_frameOfBytes (data : Nat → Nat → Byte) {r c : Nat} (hr : r < 64) (hc : c < 128) :
    (frameOfBytes data).pixel r c = unpackBit (data (r / 8) (127 - c)) (r % 8) := by
  have ha : 128 * r + c < 8192 := by omega
  have hrow : (128 * r + c) / 128 = r := by omega
  have hcol : (128 * r + c) % 128 = c := by omega
  rw [Framebuffer.pixel, frameOfBytes, Framebuffer.read_ofPixels 0 _ (by simp [Framebuffer.size])]
  simp [List.getD, ha, hrow, hcol]

theorem pageByte_frameOfBytes (data : Nat → Nat → Byte) {p i : Nat} (hp : p < 8) (hi : i < 128) :
    pageByte (frameOfBytes data) p i = data p i := by
  refine (pageByte_eq_iff ..).2 fun q hq => ?_
  have hpage : (8 * p + q) / 8 = p := by omega
  have hbit : (8 * p + q) % 8 = q := by omega
  rw [pixel_frameOfBytes data (by omega) (by omega), hpage, hbit, show 127 - (127 - i) = i by omega]

/-- Framebuffers in canonical form with the same cells are the same. -/
theorem Framebuffer.ext_pixel {m m' : Framebuffer} (h : m.wf = true) (h' : m'.wf = true)
    (hp : ∀ r < 64, ∀ c < 128, m.pixel r c = m'.pixel r c) : m = m' := by
  refine Framebuffer.ext_wf h h' fun a ha => ?_
  have ha : a < 8192 := ha
  have hcell := hp (a / 128) (by omega) (a % 128) (by omega)
  rwa [Framebuffer.pixel, Framebuffer.pixel, Nat.div_add_mod] at hcell

/-- Settles O26: every cell is a bit of its data byte; `frameOfBytes` is the inverse. -/
theorem encodingIsABijection : Obligations.EncodingIsABijection := by
  refine ⟨fun fb fb' h h' hdata => Framebuffer.ext_pixel h h' fun r hr c hc => ?_,
    fun data => ⟨frameOfBytes data, wf_frameOfBytes data, fun p hp i hi => pageByte_frameOfBytes data hp hi⟩⟩
  have hi : 127 - c < 128 := by omega
  have hbyte : some (pageByte fb (r / 8) (127 - c)) = some (pageByte fb' (r / 8) (127 - c)) := by
    rw [← getElem?_pageData fb _ hi, ← getElem?_pageData fb' _ hi, hdata _ (by omega)]
  rw [← field_pageByte_of_cell fb r hc, ← field_pageByte_of_cell fb' r hc, Option.some.inj hbyte]

/-- Settles O27: the cells of data byte `i` of page `p` are compared with the one cell that is on. -/
theorem onePixelLightsOneBit : Obligations.OnePixelLightsOneBit := by
  intro fb r c hr hc hone p hp i hi
  refine (pageByte_eq_iff ..).2 fun q hq => ?_
  rw [hone _ (by omega) _ (by omega)]
  split
  case isTrue hcell =>
    obtain ⟨hrow, hcol⟩ := hcell
    rw [if_pos (by omega), unpackBit_topBit_shift _ (by omega) q hq, if_pos (by omega)]
  case isFalse hcell =>
    split
    case isTrue hbyte => rw [unpackBit_topBit_shift _ (by omega) q hq, if_neg (by omega)]
    case isFalse => exact (unpackBit_zero q).symm

/-- Settles O28: cell by cell the operations are those of the pixels. -/
theorem encodingIsBitwise : Obligations.EncodingIsBitwise := by
  intro f g h p hp i _
  refine ⟨fun hor => ?_, fun hand => ?_, fun hnot => ?_⟩ <;> refine (pageByte_eq_iff ..).2 fun q hq => ?_
  · rw [hor _ (by omega) _ (by omega), unpackBit_or, unpackBit_pageByte f p i hq, unpackBit_pageByte g p i hq]
  · rw [hand _ (by omega) _ (by omega), unpackBit_and, unpackBit_pageByte f p i hq, unpackBit_pageByte g p i hq]
  · rw [hnot _ (by omega) _ (by omega), unpackBit_not, unpackBit_pageByte f p i hq]

/-! ## The frame stream (43_serial_mux.md R116) -/

/-- The 131 bytes of a page, each with its selector mode: the command bytes, then the data bytes. -/
def pageStream (fb : Framebuffer) (p : Nat) : List (Mode × Byte) :=
  (pageCmd p).map (fun b => (Mode.command, b)) ++ (pageData fb p).map fun b => (Mode.data, b)

theorem frameMode_command (p : Nat) {j : Nat} (hj : j < 3) : frameMode (131 * p + j) = .command :=
  if_pos (by omega)

theorem frameByte_command (fb : Framebuffer) (p : Nat) {j : Nat} (hj : j < 3) :
    frameByte fb (131 * p + j) = (pageCmd p).getD j 0#8 := by
  have hpage : (131 * p + j) / 131 = p := by omega
  have hindex : (131 * p + j) % 131 = j := by omega
  simp [frameByte, hpage, hindex, hj]

/-- Bytes `131p` to `131p + 130` of the frame stream are those of page `p`. -/
theorem map_frameStream_page (fb : Framebuffer) (p : Nat) :
    (List.range 131).map (fun j => (frameMode (131 * p + j), frameByte fb (131 * p + j))) = pageStream fb p := by
  rw [show 131 = 3 + 128 from rfl, List.range_add, List.map_append, pageStream]
  congr 1
  · have hcmd : (pageCmd p).map (fun b => (Mode.command, b)) =
        (List.range 3).map fun j => (Mode.command, (pageCmd p).getD j 0#8) := rfl
    rw [hcmd]
    refine List.map_congr_left fun j hj => ?_
    rw [frameMode_command p (List.mem_range.1 hj), frameByte_command fb p (List.mem_range.1 hj)]
  · rw [pageData, List.map_map, List.map_map]
    refine List.map_congr_left fun i hi => ?_
    have hi := List.mem_range.1 hi
    simp only [Function.comp, ← Nat.add_assoc, frameMode_data p hi, frameByte_data fb p hi]

/-- The frame stream goes page by page. -/
theorem frameStream_pages (fb : Framebuffer) (n : Nat) :
    frameStream fb (131 * n) = (List.range n).flatMap (pageStream fb) := by
  induction n with
  | zero => rfl
  | succ n ih =>
    rw [Nat.mul_succ, frameStream, List.range_add, List.map_append, ← frameStream, ih, List.map_map,
      List.range_succ (n := n), List.flatMap_append, List.flatMap_singleton, ← map_frameStream_page]
    rfl

/-- Settles O29: the frame stream is eight pages, and ENCODE lists the two parts of each. -/
theorem frameStreamIsTheEncodedFrame : Obligations.FrameStreamIsTheEncodedFrame := by
  intro fb
  rw [encodeFrame, List.flatMap_map]
  exact frameStream_pages fb 8

/-! ## The data bytes of a transfer (R96, 43_serial_mux.md R113) -/

theorem State.sendingData_iff {s : State} :
    s.sendingData = true ↔ s.busy = true ∧ s.opc = Opcode.render ∧ s.xfer = .offering ∧ s.ph = .data := by
  simp only [State.sendingData, Bool.and_eq_true, beq_iff_eq, and_assoc]

/-- A data byte that is due, with no early failure, is handed over. -/
theorem step_dataByte {s : State} (hr : s.inReset = false) (hd : s.drv ≠ .halted) (hs : s.sendingData = true)
    (hf : s.failedEarly = false) : step s = .next (handByte (peByte s) s) := by
  obtain ⟨hb, -, hx, hph⟩ := State.sendingData_iff.1 hs
  have hc : s.sendingCommand = false := by simp [State.sendingCommand, hph]
  rw [step_advance hr hd hb (.inl hc), advance, hx]
  simp [hf, hs]

/-- Settles O36: the byte handed over is PE's, and the last index of a data transfer is 127. -/
theorem dataBytesLeaveInOrder : Obligations.DataBytesLeaveInOrder := by
  intro s hr hd hs hf
  obtain ⟨-, ho, -, hph⟩ := State.sendingData_iff.1 hs
  have hlast : s.lastIndex = 127#7 := by
    rw [State.lastIndex, if_neg (by rw [ho]; decide), hph]
  rw [step_dataByte hr hd hs hf, handByte, hlast, peByte]
  split
  case isTrue hbi => rw [hbi]; rfl
  case isFalse => rfl

end Sys2Proof.Machine
end

section
/-!
PROOFS. The command sequencer (42_command_sequencer.md): the table of PAGECMD, the bytes CS offers, and which of the
four wire commands is emitted at which sequencer position.
-/

namespace Sys2Proof.Machine

variable {s t : State}

/-! ## The table of PAGECMD (R100, R101) -/

/-- Settles O30: the table is computed; the command bytes of a page stand first among its 131 bytes. -/
theorem pageCommandTable : Obligations.PageCommandTable := by
  refine ⟨by decide, by decide, fun fb p _ => ⟨?_, fun j hj => ⟨frameMode_command p hj, ?_⟩⟩⟩
  · rw [transferEvents, if_pos (Nat.mul_mod_right 2 p), Nat.mul_div_cancel_left p Nat.two_pos]
  · have hlen : j < (pageCmd p).length := hj
    rw [frameByte_command fb p hj, List.getD_eq_getElem _ _ hlen, List.getElem?_eq_getElem hlen]

/-! ## The command CS offers (R106) -/

/-- The wire command at the sequencer position: the meaning of the byte CS offers. -/
def csCommand (s : State) : Instr :=
  if s.opc = Opcode.init then .dispon
  else if s.bi = 0#7 then .setpage (~~~s.p)
  else if s.bi = 1#7 then .setcollo
  else .setcolhi

/-- The byte CS offers decodes to that command. -/
theorem decodeWire_csByte_eq (s : State) : decodeWire (csByte s) = .ok (csCommand s) := by
  rcases decodeWire_csByte s with ⟨ho, hd, -⟩ | ⟨ho, h0, hd, -⟩ | ⟨ho, h1, hd, -⟩ | ⟨ho, h0, h1, hd, -⟩ <;>
    rw [hd, csCommand]
  · rw [if_pos ho]
  · rw [if_neg ho, if_pos h0]
  · rw [if_neg ho, h1]; rfl
  · rw [if_neg ho, if_neg h0, if_neg h1]

theorem encode_csCommand (s : State) : encode (csCommand s) = .wire (csByte s) :=
  encode_of_decodeWire (decodeWire_csByte_eq s)

/-- Encoding is one-to-one (O1, O2), so CS offers a command's byte exactly where it offers the command. -/
theorem csByte_eq_iff {i : Instr} {b : Byte} (hi : encode i = .wire b) : csByte s = b ↔ csCommand s = i := by
  constructor
  · intro hb
    have hdec := decodeOfEncode i
    rw [hi, ← hb] at hdec
    exact Except.ok.inj ((decodeWire_csByte_eq s).symm.trans hdec)
  · intro h
    rw [← h, encode_csCommand] at hi
    exact Encoded.wire.inj hi

/-- The meaning of a wire command is the emission of its byte. -/
theorem exec_wire {i : Instr} {b : Byte} (hi : encode i = .wire b) : exec i s = emitCommand b s := by
  have hpage : ∀ d : BitVec 3, Config.opSetpage + d.setWidth 8 = 0b10110#5 ++ d := by decide
  cases i <;> cases hi
  case setpage d => exact congrArg (emitCommand · s) (hpage d)
  case setcollo | setcolhi | dispon => rfl

/-- A wire command is emitted exactly where CS offers it, and its byte is handed over. -/
theorem exec_wire_next {i : Instr} {b : Byte} (hi : encode i = .wire b) :
    exec i s = .next t ↔ s.sendingCommand = true ∧ csCommand s = i ∧ t = handByte b s := by
  rw [exec_wire hi, emitCommand_next, csByte_eq_iff hi]

theorem State.sendingCommand_iff :
    s.sendingCommand = true ↔ s.inTransfer = true ∧ s.xfer = .offering ∧ s.ph = .cmd := by
  simp only [State.sendingCommand, Bool.and_eq_true, beq_iff_eq, and_assoc]

/-- Only RENDER and INIT send. -/
theorem State.opc_render_iff (hs : s.sendingCommand = true) : s.opc = Opcode.render ↔ s.opc ≠ Opcode.init := by
  obtain ⟨-, hop⟩ := State.inTransfer_iff.1 (State.sendingCommand_iff.1 hs).1
  constructor
  · intro ho
    rw [ho]
    decide
  · exact fun hn => hop.resolve_right fun h => hn h.1

/-! Each command is the one offered at one branch of `csCommand`. -/

theorem csCommand_eq_setpage_iff {d : BitVec 3} :
    csCommand s = .setpage d ↔ s.opc ≠ Opcode.init ∧ s.bi = 0#7 ∧ d = 7#3 - s.p := by
  have hp : ∀ p : BitVec 3, ~~~p = 7#3 - p := by decide
  unfold csCommand
  split_ifs <;> simp [*, eq_comm (a := d)]

theorem csCommand_eq_setcollo_iff : csCommand s = .setcollo ↔ s.opc ≠ Opcode.init ∧ s.bi = 1#7 := by
  unfold csCommand
  split_ifs <;> simp [*]

theorem csCommand_eq_setcolhi_iff :
    csCommand s = .setcolhi ↔ s.opc ≠ Opcode.init ∧ s.bi ≠ 0#7 ∧ s.bi ≠ 1#7 := by
  unfold csCommand
  split_ifs <;> simp [*]

theorem csCommand_eq_dispon_iff : csCommand s = .dispon ↔ s.opc = Opcode.init := by
  unfold csCommand
  split_ifs <;> simp [*]

/-- Settles O7: the offered byte decodes, and both sides hand it over. -/
theorem stepRunsTheCommandByte : Obligations.StepRunsTheCommandByte := by
  intro s hr hd hs hf
  obtain ⟨i, hi, he⟩ := exec_csByte hs
  exact ⟨i, hi, (step_commandByte hr hd hs hf).trans he.symm⟩

/-- Settles O31: byte by byte of a page's three, and the one byte of INIT. -/
theorem csOffersTheTransferBytes : Obligations.CsOffersTheTransferBytes := by
  refine fun s => ⟨fun ho hph hle => ?_, fun ho => ?_⟩
  · have hn : s.opc ≠ Opcode.init := by rw [ho]; decide
    have hbytes : sendBytes s = pageCmd s.p.toNat := by rw [sendBytes, if_neg hn, hph]
    have hbi : s.bi = 0#7 ∨ s.bi = 1#7 ∨ s.bi = 2#7 := by bv_omega
    rw [hbytes]
    rcases hbi with h | h | h
    · obtain ⟨hcmd, hcs, -⟩ := setpageByte_forms s.p
      rw [csByte_render_zero ho h, h, hcs]
      exact hcmd
    · rw [csByte, if_neg hn, h]; rfl
    · rw [csByte, if_neg hn, h]; rfl
  · rw [sendBytes, csByte, if_pos ho, if_pos ho]
    exact ⟨rfl, rfl⟩

/-! ## The four wire commands (R102 to R105) -/

/-- The last byte of a command transfer of RENDER is byte 2 (10_state.md R15). -/
theorem State.lastIndex_command (hs : s.sendingCommand = true) (ho : s.opc = Opcode.render) : s.lastIndex = 2#7 := by
  obtain ⟨-, -, hph⟩ := State.sendingCommand_iff.1 hs
  rw [State.lastIndex, if_neg ((State.opc_render_iff hs).1 ho), hph]

/-- After the last byte of a transfer the index stays and the answer is due (log entry 8). -/
theorem handByte_last (hbi : s.bi = s.lastIndex) (b : Byte) :
    handByte b s = { s with tx := s.tx ++ [(s.dc, b)], xfer := .handed } := if_pos hbi

/-- A command byte of RENDER but the last. -/
theorem handByte_command (hs : s.sendingCommand = true) (ho : s.opc = Opcode.render) (hbi : s.bi ≠ 2#7) (b : Byte) :
    handByte b s = { s with tx := s.tx ++ [(s.dc, b)], bi := s.bi + 1#7 } := by
  rw [handByte, State.lastIndex_command hs ho, if_neg hbi]

/-- Settles O32: byte 0 is not the last, so the index goes to 1; CS offers a SETPAGE at no other byte. -/
theorem setpageIsEmittedFirst : Obligations.SetpageIsEmittedFirst := by
  intro s d
  have hbyte : encode (.setpage d) = .wire (0xB0#8 + d.setWidth 8) := by revert d; decide
  constructor
  · intro hs ho h0 hd
    have hn := (State.opc_render_iff hs).1 ho
    refine (exec_wire_next hbyte).2 ⟨hs, csCommand_eq_setpage_iff.2 ⟨hn, h0, hd⟩, ?_⟩
    rw [handByte_command hs ho (by rw [h0]; decide), h0]
    rfl
  · intro t h
    obtain ⟨hs, hc, -⟩ := (exec_wire_next hbyte).1 h
    obtain ⟨hn, h0, hd⟩ := csCommand_eq_setpage_iff.1 hc
    exact ⟨hs, (State.opc_render_iff hs).2 hn, h0, hd⟩

/-- Settles O33: byte 1 is not the last, so the index goes to 2; CS offers SETCOLLO at no other byte. -/
theorem setcolloIsEmittedSecond : Obligations.SetcolloIsEmittedSecond := by
  intro s
  have hbyte : encode .setcollo = .wire 0x02#8 := rfl
  constructor
  · intro hs ho h1
    have hn := (State.opc_render_iff hs).1 ho
    refine (exec_wire_next hbyte).2 ⟨hs, csCommand_eq_setcollo_iff.2 ⟨hn, h1⟩, ?_⟩
    rw [handByte_command hs ho (by rw [h1]; decide), h1]
    rfl
  · intro t h
    obtain ⟨hs, hc, -⟩ := (exec_wire_next hbyte).1 h
    obtain ⟨hn, h1⟩ := csCommand_eq_setcollo_iff.1 hc
    exact ⟨hs, (State.opc_render_iff hs).2 hn, h1⟩

/-- Settles O34: byte 2 is the last; CS offers SETCOLHI from byte 2 on, and R15 lists none after it. -/
theorem setcolhiIsEmittedThird : Obligations.SetcolhiIsEmittedThird := by
  intro s
  have hbyte : encode .setcolhi = .wire 0x10#8 := rfl
  constructor
  · intro hs ho h2
    have hn := (State.opc_render_iff hs).1 ho
    refine (exec_wire_next hbyte).2 ⟨hs, csCommand_eq_setcolhi_iff.2 ⟨hn, ?_, ?_⟩, ?_⟩
    · rw [h2]; decide
    · rw [h2]; decide
    · rw [handByte_last (h2.trans (State.lastIndex_command hs ho).symm)]
  · intro t hle h
    obtain ⟨hs, hc, -⟩ := (exec_wire_next hbyte).1 h
    obtain ⟨hn, h0, h1⟩ := csCommand_eq_setcolhi_iff.1 hc
    have ho := (State.opc_render_iff hs).2 hn
    rw [State.lastIndex_command hs ho] at hle
    exact ⟨hs, ho, by bv_omega⟩

/-- Settles O35: the transfer of INIT has one byte, and CS offers DISPON in no other operation. -/
theorem disponIsEmittedByInit : Obligations.DisponIsEmittedByInit := by
  intro s
  have hbyte : encode .dispon = .wire 0xAF#8 := rfl
  constructor
  · intro hs ho h0
    refine (exec_wire_next hbyte).2 ⟨hs, csCommand_eq_dispon_iff.2 ho, ?_⟩
    rw [handByte_last (by rw [h0, State.lastIndex, if_pos ho])]
  · intro t h
    obtain ⟨hs, hc, -⟩ := (exec_wire_next hbyte).1 h
    exact ⟨hs, csCommand_eq_dispon_iff.1 hc⟩

end Sys2Proof.Machine
end

section
/-!
PROOFS. The serial multiplexer (43_serial_mux.md): a transfer is handed over byte by byte under one level of the
selector line, the line moves at the start of a SEND only, and a transfer without an answer holds the block.
-/

namespace Sys2Proof.Machine

variable {s t : State}

/-! ## The bytes of a transfer (R113, R117) -/

theorem length_sendBytes (s : State) : (sendBytes s).length = s.lastIndex.toNat + 1 := by
  unfold sendBytes State.lastIndex
  by_cases ho : s.opc = Opcode.init
  · rw [if_pos ho, if_pos ho]
    rfl
  · rw [if_neg ho, if_neg ho]
    cases s.ph with
    | cmd => rfl
    | data => exact pageData_length s.fb s.p.toNat

/-- The byte on offer is the one of the transfer's sequence at the byte index: CS's in phase Cmd, PE's in phase
Data. -/
theorem sendBytes_getElem?_bi (ho : s.opc = Opcode.render) (hle : s.bi ≤ s.lastIndex) :
    (sendBytes s)[s.bi.toNat]? = some (txData s) := by
  have hn : s.opc ≠ Opcode.init := by rw [ho]; decide
  cases hph : s.ph with
  | cmd =>
    rw [State.lastIndex, if_neg hn, hph] at hle
    rw [(csOffersTheTransferBytes s).1 ho hph hle, txData, hph]
  | data =>
    rw [sendBytes, if_neg hn, txData, hph]
    exact getElem?_pageData s.fb s.p.toNat s.bi.isLt

/-- What is left of the sequence at the byte index begins with the byte on offer. -/
theorem drop_sendBytes_bi (ho : s.opc = Opcode.render) (hle : s.bi ≤ s.lastIndex) :
    (sendBytes s).drop s.bi.toNat = txData s :: (sendBytes s).drop (s.bi.toNat + 1) := by
  obtain ⟨hlt, hbyte⟩ := List.getElem?_eq_some_iff.1 (sendBytes_getElem?_bi ho hle)
  rw [List.drop_eq_getElem_cons hlt, hbyte]

/-! ## A transfer handed over (R111, R113) -/

/-- A transfer of RENDER is being handed over, and no failure of it is waiting. -/
structure State.HandingOver (s : State) : Prop where
  noReset : s.inReset = false
  notHalted : s.drv ≠ .halted
  busy : s.busy = true
  render : s.opc = Opcode.render
  offering : s.xfer = .offering
  noFailure : ∀ k, s.inXfer.head? ≠ some (.fail k)

theorem State.HandingOver.failedEarly (h : s.HandingOver) : s.failedEarly = false := by
  unfold State.failedEarly
  split
  next taken rest hx => exact absurd (by rw [hx]; rfl) (h.noFailure taken)
  next => rfl

/-- A step of such a transfer hands over the byte on offer. -/
theorem State.HandingOver.step_eq (h : s.HandingOver) : step s = .next (handByte (txData s) s) := by
  cases hph : s.ph with
  | cmd =>
    have hdue : s.sendingCommand = true :=
      State.sendingCommand_iff.2 ⟨State.inTransfer_iff.2 ⟨h.busy, .inl h.render⟩, h.offering, hph⟩
    rw [step_commandByte h.noReset h.notHalted hdue h.failedEarly, txData, hph]
  | data =>
    have hdue : s.sendingData = true := State.sendingData_iff.2 ⟨h.busy, h.render, h.offering, hph⟩
    rw [step_dataByte h.noReset h.notHalted hdue h.failedEarly, txData, hph]

/-- Before the last byte of a transfer the index counts up. -/
theorem handByte_notLast (hbi : s.bi ≠ s.lastIndex) (b : Byte) :
    handByte b s = { s with tx := s.tx ++ [(s.dc, b)], bi := s.bi + 1#7 } := if_neg hbi

/-- With `k + 1` bytes left, `k + 1` steps hand over these and no other; by induction on `k`. -/
theorem State.HandingOver.run_rest {k : Nat} (h : s.HandingOver) (hk : s.lastIndex.toNat = s.bi.toNat + k) :
    Host.Core.run Sys2Proof.core (k + 1) s = .next { s with
      tx := s.tx ++ ((sendBytes s).drop s.bi.toNat).map (fun b => (s.dc, b)), bi := s.lastIndex, xfer := .handed } := by
  induction k generalizing s with
  | zero =>
    have hbi : s.bi = s.lastIndex := (BitVec.eq_of_toNat_eq hk).symm
    have hend : (sendBytes s).drop (s.bi.toNat + 1) = [] :=
      List.drop_eq_nil_of_le (by rw [length_sendBytes, hk])
    rw [run_succ h.step_eq, run_zero, handByte_last hbi, drop_sendBytes_bi h.render (BitVec.le_of_eq hbi), hend, ← hbi]
    rfl
  | succ k ih =>
    have hlt : s.bi.toNat < s.lastIndex.toNat := by omega
    have hbi : s.bi ≠ s.lastIndex := fun e => hlt.ne (congrArg BitVec.toNat e)
    have hnext : (s.bi + 1#7).toNat = s.bi.toNat + 1 :=
      BitVec.toNat_add_of_lt (Nat.lt_of_le_of_lt hlt s.lastIndex.isLt)
    have hrest := ih (s := { s with tx := s.tx ++ [(s.dc, txData s)], bi := s.bi + 1#7 })
      ⟨h.noReset, h.notHalted, h.busy, h.render, h.offering, h.noFailure⟩
      (show s.lastIndex.toNat = (s.bi + 1#7).toNat + k by omega)
    rw [run_succ h.step_eq, handByte_notLast hbi, hrest, drop_sendBytes_bi h.render hlt.le, hnext, List.map_cons,
      List.append_assoc]
    rfl

/-- Settles O37: from byte 0 on the rest of a transfer is the whole of it. -/
theorem transferIsHandedOverWhole : Obligations.TransferIsHandedOverWhole := by
  intro s hr hd hb ho hx h0 hfail
  have h : s.HandingOver := ⟨hr, hd, hb, ho, hx, hfail⟩
  rw [length_sendBytes, h.run_rest (by rw [h0]; exact (Nat.zero_add _).symm), h0]
  rfl

/-! ## The selector line (R112) -/

theorem Begun.dc_eq {op : BitVec 4} {fresh : Prop} (b : Begun s op fresh t) : t.dc = s.dc := by rw [b.eq_with]

/-- An answered transfer leaves the selector line alone or is followed by the next SEND. -/
theorem afterTransfer_dc (res : Result) (s : State) :
    (afterTransfer res s).dc = s.dc ∨
    ∃ m u, afterTransfer res s = beginSend m u ∧ u.tx = s.tx := by
  rcases afterTransfer_eq res s with ⟨-, e⟩ | ⟨-, -, e⟩ | ⟨-, -, -, e⟩ | ⟨-, -, -, -, e⟩ | ⟨-, -, -, -, e⟩
  · exact .inl (by rw [e]; rfl)
  · exact .inl (by rw [e]; rfl)
  · exact .inr ⟨_, _, e, rfl⟩
  · exact .inl (by rw [e]; rfl)
  · exact .inr ⟨_, _, e, rfl⟩

/-- The start of a SEND is the newest event, and no byte has left yet (R111). -/
theorem beginSend_start (m : Mode) (s : State) :
    (beginSend m s).trace.getLast? = some (.selLine (beginSend m s).dc) ∧ (beginSend m s).bi = 0#7 ∧
      (beginSend m s).xfer = .offering ∧ (beginSend m s).tx = s.tx := by
  simp

/-- Settles O55: of the cases of a step only the starts of a SEND write DC: the DISPON transfer of INIT, the first of
RENDER, and those after an answer. -/
theorem selectorMovesOnlyAtASend : Obligations.SelectorMovesOnlyAtASend := by
  intro s t hr hstep hne
  cases (step_cases hstep).1 with
  | reset asserted => rw [hr] at asserted; cases asserted
  | initHighHeld => exact beginSend_start .command (endHold 4#3 s)
  | renderStart => exact beginSend_start .command _
  | answered a rest sending ans when' =>
    rcases afterTransfer_dc a.result (endSend a.result s) with hkept | ⟨m, u, hsend, htx⟩
    · exact absurd hkept hne
    · rw [hsend]
      obtain ⟨hsel, hbi, hx, hu⟩ := beginSend_start m u
      exact ⟨hsel, hbi, hx, hu.trans htx⟩
  | samplesMissing _ b | samplesTaken _ b | acqMissing _ b | acqOk _ _ b | acqFail _ _ b =>
    exact absurd b.dc_eq hne
  | _ => exact absurd (by simp) hne

/-! ## A transfer without an answer (R114) -/

/-- Settles O38: once all bytes are handed over, the only move is to take the answer, and none is there. -/
theorem unansweredTransferHolds : Obligations.UnansweredTransferHolds := by
  intro s hr hd hs hx hans
  have hc : s.sendingCommand = false := by simp [State.sendingCommand, hx]
  rw [step_advance hr hd (State.inTransfer_iff.1 hs).1 (.inl hc), advance, hx]
  simp [hs, takeAnswer, hans]

end Sys2Proof.Machine
end

section
/-!
PROOFS. The driver operations (44_driver_ops.md): which operation each driver state allows (R126), CONFIG with its
answers (R128), INIT (R130) and RENDER (R132) from acceptance to their end, and what a session's trace holds (R131).
-/

namespace Sys2Proof.Machine

variable {s t : State}

/-! ## Operations and driver states (R126) -/

/-- An operation that gives no response in its first step, or one that is not REJECTED_STATE, runs. -/
theorem State.Runs.of_next {i : Instr} (h : exec i s = .next t)
    (hr : t.resps = s.resps ∨ ∃ r, t.resps = s.resps ++ [r] ∧ r.code ≠ .rejectedState) : s.Runs i := by
  refine ⟨t, h, fun r hresp => ?_⟩
  rcases hr with hsame | ⟨r', hone, hcode⟩
  · simp [hsame] at hresp
  · obtain rfl : r' = r := by simpa [hone] using hresp
    exact hcode

theorem exec_config_ready (h : s.Ready) (hd : s.drv = .uninitialized) :
    exec .config s = .next (askAcquisition { s with busy := true, opc := Opcode.config }) := by
  simp only [exec, execConfig, hd, beq_self_eq_true, accept_ready _ _ h]

theorem exec_init_ready (h : s.Ready) (hd : s.drv = .configured) :
    exec .init s = .next (driveReset 0#1 1#3 { s with busy := true, opc := Opcode.init }) := by
  simp only [exec, execInit, hd, beq_self_eq_true, accept_ready _ _ h]

theorem exec_render_ready (h : s.Ready) (hd : s.drv = .displaying) :
    exec .render s = .next
      (beginSend .command { s with busy := true, opc := Opcode.render, p := 0#3, ph := .cmd }) := by
  simp only [exec, execRender, hd, beq_self_eq_true, accept_ready _ _ h]

theorem rejects_config (h : s.Ready) (hd : s.drv ≠ .uninitialized) : s.Rejects .config := by
  simp only [State.Rejects, exec, execConfig, beq_eq_false_iff_ne.2 hd, accept_rejects _ _ h, answer]

theorem rejects_init (h : s.Ready) (hd : s.drv ≠ .configured) : s.Rejects .init := by
  simp only [State.Rejects, exec, execInit, beq_eq_false_iff_ne.2 hd, accept_rejects _ _ h, answer]

theorem rejects_render (h : s.Ready) (hd : s.drv ≠ .displaying) : s.Rejects .render := by
  simp only [State.Rejects, exec, execRender, beq_eq_false_iff_ne.2 hd, accept_rejects _ _ h, answer]

theorem runs_ldgray (h : s.Ready) (w ht : BitVec 14) : s.Runs (.ldgray w ht) := by
  refine .of_next (exec_ldgray_ready h w ht) ?_
  split
  case isTrue =>
    rcases takeSamples_eq { s with busy := true, opc := Opcode.ldgray } with ⟨-, e⟩ | ⟨-, e⟩ <;> rw [e]
    · exact .inr ⟨_, rfl, nofun⟩
    · exact .inl rfl
  case isFalse => exact .inr ⟨_, rfl, nofun⟩

theorem runs_config (h : s.Ready) (hd : s.drv = .uninitialized) : s.Runs .config := by
  refine .of_next (exec_config_ready h hd) ?_
  rcases askAcquisition_eq { s with busy := true, opc := Opcode.config } with ⟨-, e⟩ | ⟨_, -, e⟩ | ⟨_, -, e⟩ <;>
    rw [e]
  · exact .inl rfl
  · exact .inr ⟨_, rfl, nofun⟩
  · exact .inr ⟨_, rfl, nofun⟩

/-- In Halted no host operation is accepted (60_exceptions.md R146). -/
theorem exec_host_halted (hd : s.drv = .halted) {i : Instr} {w : HostWord} (hi : encode i = .host w) :
    exec i s = .fault .halted := by
  obtain ⟨op, allowed, run, hexec⟩ := exec_host ⟨w, hi⟩
  rw [hexec, accept, if_pos hd]

/-- Settles O10: the table row by row, then its columns; the last column is `accept` in Halted. -/
theorem operationsByDriverState : Obligations.OperationsByDriverState := by
  intro s
  constructor
  · intro h
    refine ⟨fun row col val => .of_next (exec_fbset_ready h row col val) (.inr ⟨_, rfl, nofun⟩),
      fun row col => .of_next (exec_fbget_ready h row col) (.inr ⟨_, rfl, nofun⟩),
      .of_next (exec_fbclr_ready h) (.inr ⟨_, rfl, nofun⟩), runs_ldgray h,
      fun hd => ⟨runs_config h hd, ?_, ?_⟩, fun hd => ⟨?_, ?_, ?_⟩, fun hd => ⟨?_, ?_, ?_⟩⟩
    · exact rejects_init h (hd.trans_ne nofun)
    · exact rejects_render h (hd.trans_ne nofun)
    · exact rejects_config h (hd.trans_ne nofun)
    · exact .of_next (exec_init_ready h hd) (.inl rfl)
    · exact rejects_render h (hd.trans_ne nofun)
    · exact rejects_config h (hd.trans_ne nofun)
    · exact rejects_init h (hd.trans_ne nofun)
    · exact .of_next (exec_render_ready h hd) (.inl rfl)
  · intro hd i w t hi hexec
    rw [exec_host_halted hd hi] at hexec
    cases hexec

/-! ## CONFIG (R128) -/

theorem askAcquisition_of_none (hacq : s.inAcq = []) : askAcquisition s = s := by
  rw [askAcquisition, hacq]

theorem askAcquisition_of_ok {rest : List Result} (hacq : s.inAcq = .ok :: rest) :
    askAcquisition s = { s with
      pinoe := true, drv := .configured, trace := s.trace ++ [.pinsOut], inAcq := rest, busy := false, opc := 0#4,
      resps := s.resps ++ [⟨.ok, 0#1⟩] } := by
  rw [askAcquisition, hacq]
  rfl

theorem askAcquisition_of_fail {rest : List Result} (hacq : s.inAcq = .fail :: rest) :
    askAcquisition s = { s with
      drv := .halted, err := .acquisitionFailure, errop := s.opc, errxfer := 0#5, inAcq := rest,
      resps := s.resps ++ [⟨.fatal, 0#1⟩],
      busy := false, opc := 0#4, stg := 0#3, p := 0#3, ph := .cmd, bi := 0#7, tmr := 0, xfer := .none } := by
  rw [askAcquisition, hacq]
  rfl

/-- A step of a CONFIG in flight asks its question again. -/
theorem step_config_waiting (hr : s.inReset = false) (hd : s.drv ≠ .halted) (hb : s.busy = true)
    (ho : s.opc = Opcode.config) (hx : s.xfer = .none) : step s = .next (askAcquisition s) := by
  have hc : s.sendingCommand = false := by simp [State.sendingCommand, hx]
  have hn : s.opc ≠ Opcode.ldgray := by rw [ho]; decide
  rw [step_advance hr hd hb (.inl hc), advance, hx]
  simp only [if_neg hn, if_pos ho]

/-- Settles O41: the Ok is there when CONFIG asks. -/
theorem configConfigures : Obligations.ConfigConfigures := by
  intro s rest h hd hacq
  have asked := askAcquisition_of_ok (s := { s with busy := true, opc := Opcode.config }) hacq
  rw [exec_config_ready h hd, asked]
  obtain ⟨-, hb, ho⟩ := h
  rw [← hb, ← ho]

/-- Settles O42: the Fail is there when CONFIG asks, and what `raise` clears is clear already in a block at rest. -/
theorem configFailureHalts : Obligations.ConfigFailureHalts := by
  intro s rest h hrest hd hacq
  have asked := askAcquisition_of_fail (s := { s with busy := true, opc := Opcode.config }) hacq
  rw [exec_config_ready h hd, asked]
  obtain ⟨-, hb, ho⟩ := h
  obtain ⟨hstg, hp, hph, hbi, htmr, hx⟩ := hrest
  simp [hb, ho, hstg, hp, hph, hbi, htmr, hx, Opcode.config]

/-- Settles O43: acceptance and every later step ask the same question. -/
theorem configWaitsForItsAnswer : Obligations.ConfigWaitsForItsAnswer := by
  refine ⟨fun s h hd hacq => ?accepted, fun s rest hr hd hb ho hx => ?waiting⟩
  case accepted =>
    have asked := askAcquisition_of_none (s := { s with busy := true, opc := Opcode.config }) hacq
    exact (exec_config_ready h hd).trans (congrArg _ asked)
  case waiting =>
    rw [step_config_waiting hr hd hb ho hx]
    refine ⟨fun hacq => ?_, fun hacq => ?_, fun hacq => ?_⟩
    · rw [askAcquisition_of_none hacq]
    · rw [askAcquisition_of_ok hacq]
    · rw [askAcquisition_of_fail hacq, ho]

/-! ## A transfer from its first byte to its answer (43_serial_mux.md R111, R114) -/

theorem State.failedEarly_iff :
    s.failedEarly = true ↔ ∃ taken rest, s.inXfer = .fail taken :: rest ∧ taken ≤ s.bi.toNat := by
  unfold State.failedEarly
  split
  next taken rest hx => simp [hx]
  next hx => simpa using fun taken rest e => absurd e (hx taken rest)

/-- A transfer is in flight, of RENDER in either phase or of INIT in its one phase. -/
structure State.Sending (s : State) : Prop where
  noReset : s.inReset = false
  notHalted : s.drv ≠ .halted
  sending : s.inTransfer = true
  phase : s.ph = .cmd ∨ s.opc = Opcode.render

theorem State.Sending.busy (h : s.Sending) : s.busy = true := (State.inTransfer_iff.1 h.sending).1

/-- A byte is on offer, and a step hands it over. -/
theorem State.Sending.step_byte (h : s.Sending) (hx : s.xfer = .offering) (hf : s.failedEarly = false) :
    step s = .next (handByte (txData s) s) := by
  cases hph : s.ph with
  | cmd =>
    rw [step_commandByte h.noReset h.notHalted (State.sendingCommand_iff.2 ⟨h.sending, hx, hph⟩) hf, txData, hph]
  | data =>
    have ho : s.opc = Opcode.render := h.phase.resolve_left (by rw [hph]; decide)
    rw [step_dataByte h.noReset h.notHalted (State.sendingData_iff.2 ⟨h.busy, ho, hx, hph⟩) hf, txData, hph]

/-- The answer is taken after the last byte, or as soon as the transfer has failed. -/
theorem State.Sending.step_answer (h : s.Sending) {a : XferAnswer} {rest : List XferAnswer}
    (ha : s.inXfer = a :: rest) (hw : s.xfer = .handed ∨ (s.xfer = .offering ∧ s.failedEarly = true)) :
    step s = .next (afterTransfer a.result (endSend a.result s)) := by
  rcases hw with hx | ⟨hx, hf⟩
  · have hc : s.sendingCommand = false := by simp [State.sendingCommand, hx]
    rw [step_advance h.noReset h.notHalted h.busy (.inl hc), advance, hx]
    simp [h.sending, takeAnswer, ha]
  · rw [step_advance h.noReset h.notHalted h.busy (.inr hf), advance, hx]
    simp [h.sending, hf, takeAnswer, ha]

/-- The byte on offer is the one of the transfer's sequence at the byte index, in INIT too. -/
theorem State.Sending.getElem?_sendBytes (h : s.Sending) (hle : s.bi ≤ s.lastIndex) :
    (sendBytes s)[s.bi.toNat]? = some (txData s) := by
  obtain ⟨-, ho | ⟨ho, -⟩⟩ := State.inTransfer_iff.1 h.sending
  · exact sendBytes_getElem?_bi ho hle
  · have hph : s.ph = .cmd := h.phase.resolve_right (by rw [ho]; decide)
    rw [State.lastIndex, if_pos ho] at hle
    have h0 : s.bi = 0#7 := by bv_omega
    rw [((csOffersTheTransferBytes s).2 ho).1, h0, txData, hph]
    rfl

/-- `s` after `n` bytes of a transfer that begins in `s`; after its last byte the index stays (log entry 8). -/
def State.afterBytes (s : State) (n : Nat) : State :=
  { s with
    tx := s.tx ++ ((sendBytes s).take n).map fun b => (s.dc, b)
    bi := BitVec.ofNat 7 (min n s.lastIndex.toNat)
    xfer := if n ≤ s.lastIndex.toNat then .offering else .handed }

theorem State.afterBytes_zero (h0 : s.bi = 0#7) (hx : s.xfer = .offering) : s.afterBytes 0 = s := by
  simp [State.afterBytes, ← h0, ← hx]

theorem State.afterBytes_bi (s : State) {n : Nat} (hn : n ≤ s.lastIndex.toNat) : (s.afterBytes n).bi.toNat = n := by
  have hlt := s.lastIndex.isLt
  rw [State.afterBytes, Nat.min_eq_left hn, BitVec.toNat_ofNat]
  exact Nat.mod_eq_of_lt (by omega)

theorem State.Sending.afterBytes (h : s.Sending) (n : Nat) : (s.afterBytes n).Sending :=
  ⟨h.noReset, h.notHalted, h.sending, h.phase⟩

theorem State.afterBytes_xfer_offering {n : Nat} (hn : n ≤ s.lastIndex.toNat) : (s.afterBytes n).xfer = .offering :=
  if_pos hn

theorem State.afterBytes_xfer_handed {n : Nat} (hn : s.lastIndex.toNat < n) : (s.afterBytes n).xfer = .handed :=
  if_neg (Nat.not_le.2 hn)

/-- One byte more. -/
theorem handByte_afterBytes {n : Nat} (hn : n ≤ s.lastIndex.toNat) {b : Byte} (hb : (sendBytes s)[n]? = some b) :
    handByte b (s.afterBytes n) = s.afterBytes (n + 1) := by
  have hbi := s.afterBytes_bi hn
  have hlast : (s.afterBytes n).lastIndex = s.lastIndex := rfl
  have htx : (s.afterBytes n).tx ++ [((s.afterBytes n).dc, b)] = (s.afterBytes (n + 1)).tx := by
    simp [State.afterBytes, List.take_add_one, hb]
  by_cases he : n = s.lastIndex.toNat
  · rw [handByte_last (BitVec.eq_of_toNat_eq (by rw [hbi, hlast, he])), htx]
    simp [State.afterBytes, he]
  · have hlt : n + 1 ≤ s.lastIndex.toNat := by omega
    rw [handByte_notLast (fun e => he (by rw [← hbi, e, hlast])), htx]
    simp [State.afterBytes, hn, hlt, BitVec.ofNat_add]

theorem endSend_afterBytes (res : Result) (n : Nat) :
    endSend res (s.afterBytes n) = { s with
      trace := s.trace ++ [.xfer s.phaseMode (sendBytes s) res],
      tx := s.tx ++ ((sendBytes s).take n).map (fun b => (s.dc, b)), bi := 0#7, xfer := .none,
      inXfer := s.inXfer.tail } := rfl

section
variable {rest : List XferAnswer} {taken : Nat} (h : s.Sending) (h0 : s.bi = 0#7) (hx : s.xfer = .offering)
include h h0 hx

/-- A transfer that has not failed yet hands over its bytes, one in each step. -/
theorem State.Sending.run_bytes {n : Nat} (hn : n ≤ (sendBytes s).length)
    (hf : ∀ taken rest, s.inXfer = .fail taken :: rest → n ≤ taken) :
    Host.Core.run Sys2Proof.core n s = .next (s.afterBytes n) := by
  induction n with
  | zero => rw [run_zero, State.afterBytes_zero h0 hx]
  | succ n ih =>
    have hle : n ≤ s.lastIndex.toNat := by rw [length_sendBytes] at hn; omega
    have hbi := s.afterBytes_bi hle
    have hearly : (s.afterBytes n).failedEarly = false := by
      rw [← Bool.not_eq_true, State.failedEarly_iff]
      rintro ⟨taken, rest, hans, hlate⟩
      have := hf taken rest hans
      omega
    have hbyte := (h.afterBytes n).getElem?_sendBytes (BitVec.le_def.2 (hbi.trans_le hle))
    rw [hbi] at hbyte
    rw [run_add (ih (by omega) fun taken rest hans => (Nat.le_succ n).trans (hf taken rest hans)),
      run_succ ((h.afterBytes n).step_byte (State.afterBytes_xfer_offering hle) hearly), run_zero,
      handByte_afterBytes hle hbyte]

/-- A transfer answered Ok: all its bytes, its event, and then what follows it. -/
theorem State.Sending.run_ok (ha : s.inXfer = .ok :: rest) :
    Host.Core.run Sys2Proof.core ((sendBytes s).length + 1) s = .next (afterTransfer .ok { s with
      trace := s.trace ++ [.xfer s.phaseMode (sendBytes s) .ok],
      tx := s.tx ++ (sendBytes s).map (fun b => (s.dc, b)), bi := 0#7, xfer := .none, inXfer := rest }) := by
  have hhanded : (s.afterBytes (sendBytes s).length).xfer = .handed :=
    State.afterBytes_xfer_handed (by rw [length_sendBytes]; exact Nat.lt_succ_self _)
  rw [run_add (h.run_bytes h0 hx le_rfl (by simp [ha])), run_succ ((h.afterBytes _).step_answer ha (.inl hhanded)),
    run_zero]
  simp only [XferAnswer.result, endSend_afterBytes, ha, List.take_length, List.tail_cons]

/-- A transfer answered Fail: the bytes its answer says, at most all, its event, and then the error (60_exceptions.md
R142). -/
theorem State.Sending.run_fail (ha : s.inXfer = .fail taken :: rest) :
    Host.Core.run Sys2Proof.core (min taken (sendBytes s).length + 1) s = .next { s with
      drv := .halted, err := .transferFailure, errop := s.opc, errxfer := s.xferIndex,
      trace := s.trace ++ [.xfer s.phaseMode (sendBytes s) .fail],
      tx := s.tx ++ ((sendBytes s).take taken).map (fun b => (s.dc, b)), resps := s.resps ++ [⟨.fatal, 0#1⟩],
      busy := false, opc := 0#4, stg := 0#3, p := 0#3, ph := .cmd, bi := 0#7, tmr := 0, xfer := .none,
      inXfer := rest } := by
  have hbytes := h.run_bytes h0 hx (Nat.min_le_right taken (sendBytes s).length) fun k _ hk => by
    rw [ha] at hk
    cases hk
    exact Nat.min_le_left ..
  have hanswer : (s.afterBytes (min taken (sendBytes s).length)).xfer = .handed ∨
      (s.afterBytes (min taken (sendBytes s).length)).xfer = .offering ∧
        (s.afterBytes (min taken (sendBytes s).length)).failedEarly = true := by
    rw [length_sendBytes]
    by_cases hearly : taken ≤ s.lastIndex.toNat
    · rw [Nat.min_eq_left (by omega)]
      exact .inr ⟨State.afterBytes_xfer_offering hearly,
        State.failedEarly_iff.2 ⟨taken, rest, ha, (s.afterBytes_bi hearly).ge⟩⟩
    · exact .inl (State.afterBytes_xfer_handed (by omega))
  rw [run_add hbytes, run_succ ((h.afterBytes _).step_answer ha hanswer), run_zero]
  simp only [XferAnswer.result, endSend_afterBytes, ha, ← List.take_eq_take_min]
  rfl

end

/-! ## INIT (R130) -/

theorem step_initStage (hr : s.inReset = false) (hd : s.drv ≠ .halted) (hb : s.busy = true)
    (ho : s.opc = Opcode.init) (hx : s.xfer = .none) : step s = initStage s := by
  have hc : s.sendingCommand = false := by simp [State.sendingCommand, hx]
  have hl : s.opc ≠ Opcode.ldgray := by rw [ho]; decide
  have hn : s.opc ≠ Opcode.config := by rw [ho]; decide
  rw [step_advance hr hd hb (.inl hc), advance, hx]
  simp only [if_neg hl, if_neg hn, if_pos ho]

/-- INIT, accepted in `s`, with both holds over and the DISPON transfer begun. -/
def State.initSend (s : State) : State :=
  beginSend .command { s with
    busy := true, opc := Opcode.init, stg := 4#3, tmr := 0, rstn := 1#1
    trace := s.trace ++ [.rstLine 0#1, .wait 100, .rstLine 1#1, .wait 100] }

theorem run_init_holds (hr : s.inReset = false) (hd : s.drv ≠ .halted) (hx : s.xfer = .none) :
    Host.Core.run Sys2Proof.core 3 (driveReset 0#1 1#3 { s with busy := true, opc := Opcode.init }) =
      .next s.initSend := by
  have stage (u : State) (hu : u = { s with
      stg := u.stg, tmr := u.tmr, rstn := u.rstn, trace := u.trace, busy := true, opc := Opcode.init }) :
      step u = initStage u := by
    rw [hu]
    exact step_initStage hr hd rfl rfl hx
  rw [run_succ ((stage _ rfl).trans (initStage_next.2 (.inl ⟨rfl, rfl⟩))),
    run_succ ((stage _ rfl).trans (initStage_next.2 (.inr (.inl ⟨rfl, rfl⟩)))),
    run_succ ((stage _ rfl).trans (initStage_next.2 (.inr (.inr ⟨rfl, rfl⟩)))), run_zero]
  simp [State.initSend, beginSend, emit, endHold, driveReset, Config.resetHoldMs]

theorem afterTransfer_ok_init (ho : s.opc = Opcode.init) :
    afterTransfer .ok s = respond .ok 0#1 { s with stg := 0#3, drv := .displaying } := if_pos ho

theorem sending_initSend (hr : s.inReset = false) (hd : s.drv ≠ .halted) (hph : s.ph = .cmd) : s.initSend.Sending :=
  ⟨hr, hd, rfl, .inl hph⟩

theorem sendBytes_initSend (s : State) : sendBytes s.initSend = [0xAF#8] := rfl

theorem phaseMode_initSend (hph : s.ph = .cmd) : s.initSend.phaseMode = .command := by
  have hsame : s.initSend.ph = s.ph := rfl
  rw [State.phaseMode, hsame, hph]

/-- Settles O44: three steps to the transfer, one byte, one answer. -/
theorem initBringsUpTheDisplay : Obligations.InitBringsUpTheDisplay := by
  intro s rest hr h hrest hd ha
  refine ⟨_, exec_init_ready h hd, rfl, rfl, rfl, ?_⟩
  obtain ⟨hnh, hb, ho⟩ := h
  obtain ⟨hstg, -, hph, hbi, htmr, hx⟩ := hrest
  rw [show 5 = 3 + ((sendBytes s.initSend).length + 1) from rfl, run_add (run_init_holds hr hnh hx),
    (sending_initSend hr hnh hph).run_ok rfl rfl ha, afterTransfer_ok_init rfl, sendBytes_initSend,
    phaseMode_initSend hph]
  simp [State.initSend, respond, answer, beginSend, emit, initEvents, sendEvents, hb, ho, hstg, hbi, htmr, hx]

/-- Settles O45: three steps to the transfer, the byte unless none is taken, the answer. -/
theorem initFailureHalts : Obligations.InitFailureHalts := by
  intro s taken rest hr h hrest hd ha
  refine ⟨_, 3 + (min taken (sendBytes s.initSend).length + 1), exec_init_ready h hd, ?_⟩
  obtain ⟨hnh, hb, ho⟩ := h
  obtain ⟨hstg, hp, hph, hbi, htmr, hx⟩ := hrest
  have hindex : s.initSend.xferIndex = 0#5 := rfl
  have hbytes : ([0xAF#8].take taken).map (fun b => (Mode.command, b)) =
      if taken = 0 then [] else [(Mode.command, 0xAF#8)] := by
    cases taken <;> simp
  rw [run_add (run_init_holds hr hnh hx), (sending_initSend hr hnh hph).run_fail rfl rfl ha, hindex,
    sendBytes_initSend, phaseMode_initSend hph, ← hbytes]
  simp [State.initSend, beginSend, emit, initEvents, sendEvents, Opcode.init, hb, ho, hstg, hp, hph, hbi, htmr, hx]

/-! ## RENDER (R132) -/

/-- The selector mode of a page's transfer in this phase (43_serial_mux.md R116). -/
def Phase.mode : Phase → Mode
  | .cmd => .command
  | .data => .data

/-- How many transfers of a page come before its transfer in this phase. -/
def Phase.transfersBefore : Phase → Nat
  | .cmd => 0
  | .data => 1

/-- How many bytes of a page come before its transfer in this phase. -/
def Phase.bytesBefore : Phase → Nat
  | .cmd => 0
  | .data => 3

/-- The bytes of a page's transfer in each phase. -/
def transferBytes (fb : Framebuffer) (p : Nat) : Phase → List Byte
  | .cmd => pageCmd p
  | .data => pageData fb p

theorem transferEvents_phase (fb : Framebuffer) (p : Nat) (ph : Phase) (res : Result) :
    transferEvents fb (2 * p + ph.transfersBefore) res = sendEvents ph.mode (transferBytes fb p ph) res := by
  cases ph with
  | cmd =>
    rw [Phase.transfersBefore, Nat.add_zero, transferEvents, if_pos (Nat.mul_mod_right 2 p),
      Nat.mul_div_cancel_left p Nat.two_pos]
    rfl
  | data => exact transferEvents_data fb p res

theorem frameEvents_succ (fb : Framebuffer) (n : Nat) :
    frameEvents fb (n + 1) = frameEvents fb n ++ transferEvents fb n .ok := by
  rw [frameEvents, List.range_succ, List.flatMap_append, List.flatMap_singleton, ← frameEvents]

/-- The bytes of a page's transfer stand in the frame stream, under its mode, after those that come before it. -/
theorem frame_transferBytes (fb : Framebuffer) {p : Nat} (hp : p < 8) (ph : Phase) {j : Nat}
    (hj : j < (transferBytes fb p ph).length) :
    frameMode (131 * p + ph.bytesBefore + j) = ph.mode ∧
      (transferBytes fb p ph)[j]? = some (frameByte fb (131 * p + ph.bytesBefore + j)) := by
  cases ph with
  | cmd => exact (pageCommandTable.2.2 fb p hp).2 j hj
  | data =>
    have hlt : j < 128 := hj.trans_eq (pageData_length fb p)
    exact ⟨frameMode_data p hlt, (frameByte_data fb p hlt).symm ▸ getElem?_pageData fb p hlt⟩

/-- The first `k` bytes of a page's transfer continue the frame stream. -/
theorem frameStream_transfer (fb : Framebuffer) {p : Nat} (hp : p < 8) (ph : Phase) (k : Nat) :
    frameStream fb (131 * p + ph.bytesBefore + min k (transferBytes fb p ph).length) =
      frameStream fb (131 * p + ph.bytesBefore) ++ ((transferBytes fb p ph).take k).map fun b => (ph.mode, b) := by
  rw [List.take_eq_take_min, frameStream, List.range_add, List.map_append, List.map_map, ← frameStream]
  congr 1
  refine List.ext_getElem? fun j => ?_
  by_cases hj : j < min k (transferBytes fb p ph).length
  · obtain ⟨hmode, hbyte⟩ := frame_transferBytes fb hp ph (j := j) (by omega)
    rw [List.getElem?_map, List.getElem?_map, List.getElem?_range hj, List.getElem?_take_of_lt hj, hbyte]
    exact congrArg (fun m => some (m, _)) hmode
  · rw [List.getElem?_eq_none (by simp; omega), List.getElem?_eq_none (by simp; omega)]

/-- A RENDER, accepted in `s`, at the start of a page's transfer, with the answers `xs` still to come. -/
def State.renderSend (s : State) (p : Nat) (ph : Phase) (xs : List XferAnswer) : State :=
  beginSend ph.mode { s with
    busy := true, opc := Opcode.render, p := BitVec.ofNat 3 p, ph := ph, inXfer := xs
    trace := s.trace ++ frameEvents s.fb (2 * p + ph.transfersBefore)
    tx := s.tx ++ frameStream s.fb (131 * p + ph.bytesBefore) }

/-- That RENDER with the page's transfer answered Ok, before anything follows. -/
def State.renderSent (s : State) (p : Nat) (ph : Phase) (xs : List XferAnswer) : State :=
  { s with
    busy := true, opc := Opcode.render, p := BitVec.ofNat 3 p, ph := ph, dc := ph.mode, bi := 0#7, xfer := .none
    inXfer := xs
    trace := s.trace ++ frameEvents s.fb (2 * p + ph.transfersBefore + 1)
    tx := s.tx ++ frameStream s.fb (131 * p + ph.bytesBefore + (transferBytes s.fb p ph).length) }

theorem afterTransfer_ok_data (ho : s.opc ≠ Opcode.init) (hph : s.ph = .data) (h7 : s.p ≠ 7#3) :
    afterTransfer .ok s = beginSend .command { s with p := s.p + 1#3, ph := .cmd } := by
  simp [afterTransfer, ho, hph, h7]

theorem afterTransfer_ok_last (ho : s.opc ≠ Opcode.init) (hph : s.ph = .data) (h7 : s.p = 7#3) :
    afterTransfer .ok s = respond .ok 0#1 { s with p := 0#3, ph := .cmd } := by
  simp [afterTransfer, ho, hph, h7]

section
variable {p : Nat} {ph : Phase} {xs : List XferAnswer}

theorem sendBytes_renderSend (hp : p < 8) : sendBytes (s.renderSend p ph xs) = transferBytes s.fb p ph := by
  have hpage : (BitVec.ofNat 3 p).toNat = p := Nat.mod_eq_of_lt hp
  cases ph with
  | cmd => exact congrArg pageCmd hpage
  | data => exact congrArg (pageData s.fb) hpage

theorem phaseMode_renderSend : (s.renderSend p ph xs).phaseMode = ph.mode := by
  cases ph <;> rfl

theorem xferIndex_renderSend (hp : p < 8) :
    (s.renderSend p ph xs).xferIndex = BitVec.ofNat 5 (2 * p + ph.transfersBefore) := by
  have hpage : (BitVec.ofNat 3 p).toNat = p := Nat.mod_eq_of_lt hp
  cases ph <;> exact congrArg (fun q => BitVec.ofNat 5 (2 * q + _)) hpage

section
variable (hr : s.inReset = false) (hd : s.drv ≠ .halted) (hp : p < 8)
include hr hd hp

/-- A page's transfer answered Ok: its events and its bytes are there, and what follows begins. -/
theorem run_renderSend_ok :
    Host.Core.run Sys2Proof.core ((transferBytes s.fb p ph).length + 1) (s.renderSend p ph (.ok :: xs)) =
      .next (afterTransfer .ok (s.renderSent p ph xs)) := by
  have hs : (s.renderSend p ph (.ok :: xs)).Sending := ⟨hr, hd, rfl, .inr rfl⟩
  have hrun := hs.run_ok rfl rfl rfl
  have hstream := frameStream_transfer s.fb hp ph (transferBytes s.fb p ph).length
  rw [Nat.min_self, List.take_length] at hstream
  rw [sendBytes_renderSend hp, phaseMode_renderSend] at hrun
  rw [hrun, State.renderSent, frameEvents_succ, transferEvents_phase, hstream]
  simp [State.renderSend, beginSend, emit, sendEvents]

/-- A page's transfer answered Fail halts the block; the bytes that were taken are in the stream. -/
theorem run_renderSend_fail (taken : Nat) :
    Host.Core.run Sys2Proof.core (min taken (transferBytes s.fb p ph).length + 1)
        (s.renderSend p ph (.fail taken :: xs)) =
      .next { s with
        drv := .halted, err := .transferFailure, errop := 7#4
        errxfer := BitVec.ofNat 5 (2 * p + ph.transfersBefore), dc := ph.mode
        trace := s.trace ++ frameEvents s.fb (2 * p + ph.transfersBefore) ++
          transferEvents s.fb (2 * p + ph.transfersBefore) .fail
        tx := s.tx ++ frameStream s.fb (131 * p + ph.bytesBefore + min taken (transferBytes s.fb p ph).length)
        resps := s.resps ++ [⟨.fatal, 0#1⟩], busy := false, opc := 0#4, stg := 0#3, p := 0#3, ph := .cmd, bi := 0#7
        tmr := 0, xfer := .none, inXfer := xs } := by
  have hs : (s.renderSend p ph (.fail taken :: xs)).Sending := ⟨hr, hd, rfl, .inr rfl⟩
  have hrun := hs.run_fail rfl rfl rfl
  rw [sendBytes_renderSend hp, phaseMode_renderSend, xferIndex_renderSend hp] at hrun
  rw [hrun, transferEvents_phase, frameStream_transfer s.fb hp]
  simp [State.renderSend, beginSend, emit, sendEvents, Opcode.render]

/-- After a page's command transfer comes its data transfer. -/
theorem run_renderSend_cmd :
    Host.Core.run Sys2Proof.core 4 (s.renderSend p .cmd (.ok :: xs)) = .next (s.renderSend p .data xs) :=
  run_renderSend_ok hr hd hp

/-- After the data transfer of a page, not the last, comes the next page. -/
theorem run_renderSend_data (h7 : p ≠ 7) :
    Host.Core.run Sys2Proof.core 129 (s.renderSend p .data (.ok :: xs)) = .next (s.renderSend (p + 1) .cmd xs) := by
  have hpage : (s.renderSent p .data xs).p ≠ 7#3 :=
    fun e => h7 ((Nat.mod_eq_of_lt hp).symm.trans (congrArg BitVec.toNat e))
  have hop : (s.renderSent p .data xs).opc ≠ Opcode.init := (by decide : Opcode.render ≠ Opcode.init)
  have hrun := run_renderSend_ok (ph := .data) (xs := xs) hr hd hp
  rw [afterTransfer_ok_data hop rfl hpage, transferBytes, pageData_length] at hrun
  have hnext : BitVec.ofNat 3 p + 1#3 = BitVec.ofNat 3 (p + 1) := (BitVec.ofNat_add p 1).symm
  have htransfers : 2 * p + Phase.data.transfersBefore + 1 = 2 * (p + 1) + Phase.cmd.transfersBefore := rfl
  have hbytes : 131 * p + Phase.data.bytesBefore + 128 = 131 * (p + 1) + Phase.cmd.bytesBefore := by
    simp only [Phase.bytesBefore]
    omega
  rw [hrun]
  simp only [State.renderSend, State.renderSent, beginSend, transferBytes, pageData_length, hnext, htransfers, hbytes]
  rfl

end

/-- Page after page, by induction on the pages sent. -/
theorem run_to_page (hr : s.inReset = false) (hd : s.drv ≠ .halted) (hp : p < 8) :
    Host.Core.run Sys2Proof.core (133 * p) (s.renderSend 0 .cmd (List.replicate (2 * p) .ok ++ xs)) =
      .next (s.renderSend p .cmd xs) := by
  induction p generalizing xs with
  | zero => exact run_zero _
  | succ p ih =>
    have hfront : List.replicate (2 * (p + 1)) XferAnswer.ok ++ xs =
        List.replicate (2 * p) XferAnswer.ok ++ .ok :: .ok :: xs := by
      simp [Nat.mul_add, List.replicate_add]
    rw [hfront, Nat.mul_succ, run_add (ih (by omega)), run_add (n := 129) (run_renderSend_cmd hr hd (by omega)),
      run_renderSend_data hr hd (by omega) (by omega)]

/-- To the start of any transfer of the frame. -/
theorem run_to_renderSend (hr : s.inReset = false) (hd : s.drv ≠ .halted) (hp : p < 8) :
    Host.Core.run Sys2Proof.core (133 * p + 4 * ph.transfersBefore)
        (s.renderSend 0 .cmd (List.replicate (2 * p + ph.transfersBefore) .ok ++ xs)) =
      .next (s.renderSend p ph xs) := by
  cases ph with
  | cmd => exact run_to_page hr hd hp
  | data =>
    have hfront : List.replicate (2 * p + 1) XferAnswer.ok ++ xs =
        List.replicate (2 * p) XferAnswer.ok ++ .ok :: xs := by
      simp [List.replicate_succ']
    rw [Phase.transfersBefore, hfront, run_add (run_to_page hr hd hp), run_renderSend_cmd hr hd hp]

end

theorem exec_render_begins (h : s.Ready) (hd : s.drv = .displaying) :
    exec .render s = .next (s.renderSend 0 .cmd s.inXfer) := by
  rw [exec_render_ready h hd]
  simp [State.renderSend, Phase.mode, Phase.transfersBefore, Phase.bytesBefore, frameEvents, frameStream]

/-- Settles O46: fifteen transfers, each followed by the next, and the last. -/
theorem renderSendsTheWholeFrame : Obligations.RenderSendsTheWholeFrame := by
  intro s rest hr h hrest hd ha
  refine ⟨_, exec_render_begins h hd, rfl, ?_⟩
  obtain ⟨hnh, hb, ho⟩ := h
  obtain ⟨-, hp, hph, hbi, -, hx⟩ := hrest
  have hlast := run_renderSend_ok (ph := .data) (xs := rest) hr hnh (show 7 < 8 by decide)
  have hop : (s.renderSent 7 .data rest).opc ≠ Opcode.init := (by decide : Opcode.render ≠ Opcode.init)
  rw [transferBytes, pageData_length, afterTransfer_ok_last hop rfl rfl] at hlast
  have hfront : s.inXfer = List.replicate 15 XferAnswer.ok ++ .ok :: rest := by
    rw [ha]
    rfl
  have hreach := run_to_renderSend (ph := .data) (xs := .ok :: rest) hr hnh (show 7 < 8 by decide)
  rw [hfront]
  refine (run_add (n := 129) hreach).trans (hlast.trans ?_)
  simp [State.renderSent, respond, answer, transferBytes, pageData_length, Phase.mode, Phase.transfersBefore,
    Phase.bytesBefore, hb, ho, hp, hph, hbi, hx]

/-- Every transfer of a frame is one of a page in a phase (20_memory.md R42). -/
theorem exists_page_phase {n : Nat} (hn : n < 16) : ∃ p ph, p < 8 ∧ n = 2 * p + Phase.transfersBefore ph := by
  rcases Nat.mod_two_eq_zero_or_one n with hmod | hmod
  · exact ⟨n / 2, .cmd, by omega, by rw [Phase.transfersBefore]; omega⟩
  · exact ⟨n / 2, .data, by omega, by rw [Phase.transfersBefore]; omega⟩

theorem Phase.mode_of_number (p : Nat) (ph : Phase) :
    (if (2 * p + ph.transfersBefore) % 2 = 0 then Mode.command else .data) = ph.mode := by
  cases ph with
  | cmd => exact if_pos (Nat.mul_mod_right 2 p)
  | data => exact if_neg (by rw [Phase.transfersBefore]; omega)

/-- The bytes of the frame up to `taken` bytes of a transfer, by the transfer's number. -/
theorem bytes_of_number (fb : Framebuffer) (p : Nat) (ph : Phase) (taken : Nat) :
    131 * ((2 * p + ph.transfersBefore) / 2) +
        (if (2 * p + ph.transfersBefore) % 2 = 0 then min taken 3 else 3 + min taken 128) =
      131 * p + ph.bytesBefore + min taken (transferBytes fb p ph).length := by
  cases ph with
  | cmd =>
    have hlen : (transferBytes fb p .cmd).length = 3 := rfl
    rw [hlen, Phase.transfersBefore, if_pos (by omega), Phase.bytesBefore]
    omega
  | data =>
    rw [transferBytes, pageData_length, Phase.transfersBefore, if_neg (by omega), Phase.bytesBefore]
    omega

/-- Settles O47: the transfers before the failed one, and the bytes of that one that were taken. -/
theorem renderStopsAtTheFirstFailure : Obligations.RenderStopsAtTheFirstFailure := by
  intro s n taken rest hr h hrest hd hn ha
  obtain ⟨p, ph, hp, rfl⟩ := exists_page_phase hn
  refine ⟨_, 133 * p + 4 * ph.transfersBefore + (min taken (transferBytes s.fb p ph).length + 1),
    exec_render_begins h hd, ?_⟩
  obtain ⟨hnh, hb, ho⟩ := h
  obtain ⟨hstg, hp0, hph, hbi, htmr, hx⟩ := hrest
  rw [ha, run_add (run_to_renderSend hr hnh hp), run_renderSend_fail hr hnh hp, Phase.mode_of_number,
    bytes_of_number s.fb]
  simp only [hb, ho, hstg, hp0, hph, hbi, htmr, hx]

/-! ## The trace of a session (R131, R134) -/

/-- The moves of the acceptor `traceStep`, one for each event that may come; the length of a data transfer is left
out. -/
inductive TraceMove : TracePos → Event → TracePos → Prop
  | pinsOut : TraceMove .start .pinsOut .pins
  | resetFall : TraceMove .pins (.rstLine 0#1) .resetLow
  | lowHeld : TraceMove .resetLow (.wait 100) .lowHeld
  | resetRise : TraceMove .lowHeld (.rstLine 1#1) .resetHigh
  | highHeld : TraceMove .resetHigh (.wait 100) .highHeld
  | selectDispon : TraceMove .highHeld (.selLine .command) .disponSel
  | dispon (res) : TraceMove .disponSel (.xfer .command [0xAF#8] res) (TracePos.between.after res)
  | selectFrame : TraceMove .between (.selLine .command) (.cmdSel 0#3)
  | command (p : BitVec 3) (res) :
      TraceMove (.cmdSel p) (.xfer .command (pageCmd p.toNat) res) ((TracePos.cmdSent p).after res)
  | selectData (p) : TraceMove (.cmdSent p) (.selLine .data) (.dataSel p)
  | data (p : BitVec 3) (bytes res) :
      TraceMove (.dataSel p) (.xfer .data bytes res) ((if p = 7#3 then TracePos.between else .pageSent p).after res)
  | selectPage (p : BitVec 3) : TraceMove (.pageSent p) (.selLine .command) (.cmdSel (p + 1#3))

theorem traceMove_of_traceStep {pos next : TracePos} {e : Event} (h : traceStep pos e = some next) :
    TraceMove pos e next := by
  unfold traceStep at h
  split at h
  · cases h; exact .pinsOut
  · obtain ⟨rfl, ⟨⟩⟩ := Option.ite_none_right_eq_some.1 h; exact .resetFall
  · obtain ⟨rfl, ⟨⟩⟩ := Option.ite_none_right_eq_some.1 h; exact .lowHeld
  · obtain ⟨rfl, ⟨⟩⟩ := Option.ite_none_right_eq_some.1 h; exact .resetRise
  · obtain ⟨rfl, ⟨⟩⟩ := Option.ite_none_right_eq_some.1 h; exact .highHeld
  · cases h; exact .selectDispon
  · obtain ⟨rfl, ⟨⟩⟩ := Option.ite_none_right_eq_some.1 h; exact .dispon _
  · cases h; exact .selectFrame
  · obtain ⟨rfl, ⟨⟩⟩ := Option.ite_none_right_eq_some.1 h; exact .command _ _
  · cases h; exact .selectData _
  · obtain ⟨-, ⟨⟩⟩ := Option.ite_none_right_eq_some.1 h; exact .data _ _ _
  · cases h; exact .selectPage _
  · cases h

/-- What holds at the start and is kept by every move holds of every trace in the order of R134. -/
theorem tracePos_induction {motive : List Event → TracePos → Prop} (nil : motive [] .start)
    (snoc : ∀ tr pos e next, motive tr pos → TraceMove pos e next → motive (tr ++ [e]) next) {tr : List Event}
    {pos : TracePos} (h : tracePos tr = some pos) : motive tr pos := by
  induction tr using List.reverseRecOn generalizing pos with
  | nil => cases h; exact nil
  | append_singleton tr e ih =>
    rw [Machine.tracePos_append] at h
    obtain ⟨before, hbefore, hmove⟩ := Option.bind_eq_some_iff.1 h
    exact snoc tr before e pos (ih hbefore) (traceMove_of_traceStep hmove)

/-- Events that each move counts are counted by the position. -/
theorem countP_of_tracePos {w : Event → Bool} {f : TracePos → Nat} (start : f .start = 0)
    (move : ∀ {pos e next}, TraceMove pos e next → f next = f pos + if w e then 1 else 0) {tr : List Event}
    {pos : TracePos} (h : tracePos tr = some pos) : tr.countP w = f pos := by
  refine tracePos_induction (motive := fun tr pos => tr.countP w = f pos) start.symm ?_ h
  intro tr pos e next hcount hmove
  rw [List.countP_append, List.countP_singleton, hcount, move hmove]

/-- How many PinsOut have come. -/
def TracePos.pinsOuts : TracePos → Nat
  | .start => 0
  | _ => 1

/-- How often the reset line has gone low. -/
def TracePos.resetFalls : TracePos → Nat
  | .start | .pins => 0
  | _ => 1

/-- How often 0xAF has been sent. -/
def TracePos.dispons : TracePos → Nat
  | .start | .pins | .resetLow | .lowHeld | .resetHigh | .highHeld | .disponSel => 0
  | _ => 1

/-- The DISPON transfer has succeeded, and no transfer has failed. -/
def TracePos.DisplayOn : TracePos → Prop
  | .between | .cmdSel _ | .cmdSent _ | .dataSel _ | .pageSent _ => True
  | _ => False

/-- The transfer of 0xAF, whatever its answer. -/
def isDispon (e : Event) : Bool := e == .xfer .command [0xAF#8] .ok || e == .xfer .command [0xAF#8] .fail

theorem isDispon_pageCmd (p : Nat) (res : Result) : isDispon (.xfer .command (pageCmd p) res) = false := by
  simp [isDispon, pageCmd]

variable {pos next : TracePos} {e : Event}

theorem TraceMove.pinsOuts_eq (h : TraceMove pos e next) :
    next.pinsOuts = pos.pinsOuts + if e == .pinsOut then 1 else 0 := by
  cases h with
  | dispon res | command p res => cases res <;> rfl
  | data p bytes res => cases res <;> split <;> rfl
  | _ => rfl

theorem TraceMove.resetFalls_eq (h : TraceMove pos e next) :
    next.resetFalls = pos.resetFalls + if e == .rstLine 0#1 then 1 else 0 := by
  cases h with
  | dispon res | command p res => cases res <;> rfl
  | data p bytes res => cases res <;> split <;> rfl
  | _ => rfl

theorem TraceMove.dispons_eq (h : TraceMove pos e next) :
    next.dispons = pos.dispons + if isDispon e then 1 else 0 := by
  cases h with
  | dispon res => cases res <;> rfl
  | command p res => rw [isDispon_pageCmd]; cases res <;> rfl
  | data p bytes res => cases res <;> split <;> rfl
  | _ => rfl

/-- The display is on by the Ok of the DISPON transfer only. -/
theorem TraceMove.displayOn (h : TraceMove pos e next) (hon : next.DisplayOn) :
    pos.DisplayOn ∨ e = .xfer .command [0xAF#8] .ok := by
  cases h with
  | dispon res =>
    cases res with
    | ok => exact .inr rfl
    | fail => exact hon.elim
  | selectFrame | command | selectData | data | selectPage => exact .inl trivial
  | _ => exact hon.elim

/-- A transfer is that of 0xAF or comes while the display is on. -/
theorem TraceMove.xfer {m : Mode} {bytes : List Byte} {res : Result} (h : TraceMove pos (.xfer m bytes res) next) :
    (m = .command ∧ bytes = [0xAF#8]) ∨ pos.DisplayOn := by
  cases h with
  | dispon => exact .inl ⟨rfl, rfl⟩
  | command | data => exact .inr trivial

theorem dispon_ok_mem_of_displayOn {tr : List Event} (h : tracePos tr = some pos) (hon : pos.DisplayOn) :
    .xfer .command [0xAF#8] .ok ∈ tr := by
  refine tracePos_induction (motive := fun tr pos => pos.DisplayOn → .xfer .command [0xAF#8] .ok ∈ tr) nofun ?_ h hon
  intro tr pos e next ih hmove hnext
  rcases hmove.displayOn hnext with hon | rfl
  · exact List.mem_append_left _ (ih hon)
  · exact List.mem_append_right _ (List.mem_singleton_self _)

/-- An event of a trace in order is a move from where the events before it lead. -/
theorem tracePos_split {before after : List Event} (h : tracePos (before ++ e :: after) = some next) :
    ∃ pos mid, tracePos before = some pos ∧ TraceMove pos e mid := by
  rw [tracePos, List.foldlM_append] at h
  obtain ⟨pos, hbefore, hrest⟩ := Option.bind_eq_some_iff.1 h
  rw [List.foldlM_cons] at hrest
  obtain ⟨mid, hmove, -⟩ := Option.bind_eq_some_iff.1 hrest
  exact ⟨pos, mid, hbefore, traceMove_of_traceStep hmove⟩

/-- Under the invariant the trace is in the order of R134, in Halted too. -/
theorem State.Inv.exists_tracePos (h : s.Inv) : ∃ pos, tracePos s.trace = some pos := by
  by_cases hd : s.drv = .halted
  · exact Option.isSome_iff_exists.1 (h.haltedOrder hd)
  · exact ⟨_, h.order hd⟩

/-- Settles O57: the position counts the events, and past the DISPON transfer its Ok is in the trace. -/
theorem sessionInitialisesOnce : Obligations.SessionInitialisesOnce := by
  intro s h
  obtain ⟨pos, hpos⟩ := h.exists_tracePos
  have hlow := countP_of_tracePos rfl TraceMove.resetFalls_eq hpos
  have hpins := countP_of_tracePos rfl TraceMove.pinsOuts_eq hpos
  have hdispon := countP_of_tracePos rfl TraceMove.dispons_eq hpos
  refine ⟨hlow.trans_le ?_, hpins.trans_le ?_, ?_, fun before after m bytes res htr => ?_⟩
  · unfold TracePos.resetFalls
    split <;> decide
  · unfold TracePos.pinsOuts
    split <;> decide
  · rw [List.countP_eq_length_filter] at hdispon
    refine hdispon.trans_le ?_
    unfold TracePos.dispons
    split <;> decide
  · rw [htr] at hpos
    obtain ⟨before', mid, hbefore, hmove⟩ := tracePos_split hpos
    exact hmove.xfer.imp id (dispon_ok_mem_of_displayOn hbefore)

end Sys2Proof.Machine
end

section
/-!
PROOFS. The exceptions (60_exceptions.md): what `raise` writes (R146), a failed transfer (R142), the error that is never
raised (R144), Halted and its one way out (R148), and that a step stops nowhere else (R145).
-/

namespace Sys2Proof.Machine

variable {s t : State}

/-! ## Raising an error (R146) -/

/-- Settles O40: `raise` is one record update, and in Halted no host operation is accepted. -/
theorem raiseEntersHalted : Obligations.RaiseEntersHalted := by
  intro e index s
  refine ⟨rfl, ?_, fun i w hi => ?_⟩
  · simp [State.opReady, State.fatal]
  · exact exec_host_halted (raise_drv e index s) hi

/-! ## A failed transfer (R142) -/

/-- Once the bytes are handed over, or the transfer has failed early, a step takes the answer, or waits for it. -/
theorem step_takeAnswer (hr : s.inReset = false) (hd : s.drv ≠ .halted) (hs : s.inTransfer = true)
    (hw : s.xfer = .handed ∨ s.xfer = .offering ∧ s.failedEarly = true) : step s = .next (takeAnswer s) := by
  have hb : s.busy = true := (State.inTransfer_iff.1 hs).1
  have hc : s.sendingCommand = false ∨ s.failedEarly = true :=
    hw.imp (fun hx => by simp [State.sendingCommand, hx]) And.right
  rw [step_advance hr hd hb hc, advance]
  rcases hw with hx | ⟨hx, hf⟩
  · simp [hx, hs]
  · simp [hx, hs, hf]

/-- Settles O39: late or early the next step takes the answer: the transfer's event, then the error. -/
theorem failedTransferHalts : Obligations.FailedTransferHalts := by
  intro s taken rest hr hd hs hans hwhen
  have hfailed : s.xfer = .handed ∨ s.xfer = .offering ∧ s.failedEarly = true :=
    hwhen.imp_right fun ⟨hx, hle⟩ => ⟨hx, State.failedEarly_iff.2 ⟨taken, rest, hans, hle⟩⟩
  have htail : s.inXfer.tail = rest := by rw [hans, List.tail_cons]
  rw [step_takeAnswer hr hd hs hfailed, takeAnswer, hans, ← htail]
  rfl

/-! ## The errors a step can write (R140, R144) -/

theorem afterTransfer_err (res : Result) (s : State) :
    (afterTransfer res s).err = .transferFailure ∨ (afterTransfer res s).err = s.err := by
  rcases afterTransfer_eq res s with ⟨-, e⟩ | ⟨-, -, e⟩ | ⟨-, -, -, e⟩ | ⟨-, -, -, -, e⟩ | ⟨-, -, -, -, e⟩ <;> rw [e]
  · exact .inl rfl
  all_goals exact .inr rfl

/-- Settles O53: a step writes ERR at a reset and on raising one of the three other errors; the rest leaves it alone. -/
theorem outOfRangeIsNeverRaised : Obligations.OutOfRangeIsNeverRaised := by
  intro s t hne hstep
  cases (step_cases hstep).1 with
  | reset | wrongDimensions | acqFail => exact nofun
  | answered a rest sending ans when' =>
    rcases afterTransfer_err a.result (endSend a.result s) with hraised | hkept
    · exact hraised.trans_ne nofun
    · exact hkept.trans_ne hne
  | samplesMissing _ b | samplesTaken _ b | acqMissing _ b | acqOk _ _ b => exact b.err_eq.trans_ne hne
  | _ => simpa using hne

/-! ## Halted (R148) -/

theorem step_halted (hr : s.inReset = false) (hd : s.drv = .halted) : step s = .fault .halted := by
  simp [step, fetch, hr, hd]

/-- Settles O50: without a reset the step is the fault; with one it is the reset, which R25 describes. -/
theorem onlyResetLeavesHalted : Obligations.OnlyResetLeavesHalted := by
  intro s hd
  refine ⟨fun hr => step_halted hr hd, fun t hstep => ?_⟩
  cases hr : s.inReset with
  | false =>
    rw [step_halted hr hd] at hstep
    cases hstep
  | true =>
    rw [step_reset hr] at hstep
    cases hstep
    exact ⟨rfl, rfl, rfl, rfl, rfl, rfl, rfl, ⟨rfl, rfl, rfl, rfl, rfl, rfl⟩, rfl, rfl⟩

/-! ## Progress (R145) -/

theorem accept_next (hd : s.drv ≠ .halted) (op : BitVec 4) (allowed : Bool) (run : State → State) :
    ∃ t, accept op allowed run s = .next t := by
  rcases accept_eq op allowed run s with ⟨hh, -⟩ | ⟨-, -, e⟩ | ⟨-, -, -, e⟩ | ⟨-, -, -, e⟩
  · exact absurd hh hd
  all_goals exact ⟨_, e⟩

theorem step_noWord (hr : s.inReset = false) (hd : s.drv ≠ .halted) (hb : s.busy = false) (hw : s.inWords = []) :
    step s = .next s := by
  simp [step, fetch, fetchHost, hr, hd, hb, hw]

/-- An idle block waits for a word, rejects it or runs it. -/
theorem step_idle_next (hr : s.inReset = false) (hd : s.drv ≠ .halted) (hb : s.busy = false) :
    ∃ t, step s = .next t := by
  rcases hw : s.inWords with _ | ⟨w, ws⟩
  · exact ⟨s, step_noWord hr hd hb hw⟩
  · cases hdec : decodeHost w with
    | error r => exact ⟨_, step_rejectedEncoding hr hd hb hw hdec⟩
    | ok i =>
      obtain ⟨op, allowed, run, hexec⟩ := exec_host (decodeHost_space hdec)
      rw [stepRunsTheHostWord s w ws i hr hd hb hw hdec, hexec]
      exact accept_next (s := { s with inWords := ws }) hd ..

/-- A transfer in flight hands over a byte or takes its answer. -/
theorem State.Sending.step_next (h : s.Sending) (hx : s.xfer ≠ .none) : ∃ t, step s = .next t := by
  cases hxs : s.xfer with
  | none => exact absurd hxs hx
  | handed => exact ⟨_, step_takeAnswer h.noReset h.notHalted h.sending (.inl hxs)⟩
  | offering =>
    cases hf : s.failedEarly with
    | false => exact ⟨_, h.step_byte hxs hf⟩
    | true => exact ⟨_, step_takeAnswer h.noReset h.notHalted h.sending (.inr ⟨hxs, hf⟩)⟩

/-- Every legal position of an operation in flight has a move (10_state.md R15). -/
theorem State.Running.step_next (h : s.Running) (hr : s.inReset = false) (hd : s.drv ≠ .halted)
    (hb : s.busy = true) : ∃ t, step s = .next t := by
  rcases h with ⟨ho, -, -, -, -, -, hx⟩ | ⟨ho, ⟨-, -, -, -, -, hx⟩, -⟩ | ⟨ho, -, -, hph, -, hstg⟩ |
    ⟨ho, -, -, -, hx, -⟩
  · exact ⟨_, step_ldgray_waiting hr hd hb ho hx⟩
  · exact ⟨_, step_config_waiting hr hd hb ho hx⟩
  · rcases hstg with ⟨h1, -, hx, -⟩ | ⟨h2, -, hx, -⟩ | ⟨h3, -, hx, -⟩ | ⟨h4, -, hx, -⟩
    · exact ⟨_, (step_initStage hr hd hb ho hx).trans (initStage_next.2 (.inl ⟨h1, rfl⟩))⟩
    · exact ⟨_, (step_initStage hr hd hb ho hx).trans (initStage_next.2 (.inr (.inl ⟨h2, rfl⟩)))⟩
    · exact ⟨_, (step_initStage hr hd hb ho hx).trans (initStage_next.2 (.inr (.inr ⟨h3, rfl⟩)))⟩
    · have hs : s.Sending := ⟨hr, hd, State.inTransfer_iff.2 ⟨hb, .inr ⟨ho, h4⟩⟩, .inl hph⟩
      exact hs.step_next hx
  · have hs : s.Sending := ⟨hr, hd, State.inTransfer_iff.2 ⟨hb, .inl ho⟩, .inr ho⟩
    exact hs.step_next hx

/-- Settles O60: a reset, an idle block and every legal position of an operation in flight have a next state. -/
theorem onlyHaltedStops : Obligations.OnlyHaltedStops := by
  intro s h
  cases hr : s.inReset with
  | true => exact .inl ⟨_, step_reset hr⟩
  | false =>
    by_cases hd : s.drv = .halted
    · exact .inr ⟨hd, step_halted hr hd⟩
    · cases hb : s.busy with
      | false => exact .inl (step_idle_next hr hd hb)
      | true => exact .inl ((h.running hb).step_next hr hd hb)

end Sys2Proof.Machine
end

section
/-!
PROOFS. Reset and hazards (70_reset_and_hazards.md): an idle block without a word stays as it is, and a hardware reset
starts a session from any state (R160, R161).
-/

namespace Sys2Proof.Machine

/-- Settles O8: no word is fetched, and the step keeps the state. -/
theorem idleBlockDoesNothing : Obligations.IdleBlockDoesNothing := by
  intro s hr hd hb hw
  exact step_noWord hr hd hb hw

/-- The reset abandons the operation in flight (R161): the sequencer is back at its position between operations. -/
theorem hardwareReset_atRest (s : State) : (hardwareReset s).AtRest :=
  ⟨hardwareReset_stg s, hardwareReset_p s, hardwareReset_ph s, hardwareReset_bi s, hardwareReset_tmr s,
    hardwareReset_xfer s⟩

/-- FB after the reset is the free grid of the new session (log entry 1). -/
theorem hardwareReset_pixel (s : State) {r c : Nat} (hr : r < 64) (hc : c < 128) :
    (hardwareReset s).fb.pixel r c = Config.fbReset (s.session + 1) (128 * r + c) := by
  rw [hardwareReset_fb]
  exact Framebuffer.read_atReset (s.session + 1) _ (by omega)

/-- Settles O49: the step is the reset, whose record gives the single elements; the sequencer, the canonical form and
the cells of FB have lemmas of their own. -/
theorem hardwareResetStartsASession : Obligations.HardwareResetStartsASession := by
  intro s hr
  refine ⟨hardwareReset s, step_reset hr, rfl, rfl, rfl, rfl, rfl, rfl, hardwareReset_atRest s, rfl, rfl, rfl, rfl, rfl,
    rfl, ?canonical, ?cells⟩
  case canonical => exact Framebuffer.wf_atReset (s.session + 1)
  case cells => exact fun r hr' c hc => hardwareReset_pixel s hr' hc

end Sys2Proof.Machine
end
